-- ==== Sys2Proof/Word.lean ====
section
/-! DEFINITION. The word types of PSB: what moves on its streams and on its stripe port (R7, R13, R31).
All values are unsigned and bit 0 is the least significant bit (R7). -/

namespace Sys2Proof

/-- A command, payload or response word: 32 bits (R6 `CMD_BITS`, R31). -/
abbrev Word := BitVec 32

/-- A stripe: one byte of the framebuffer, or one sprite column byte (R6 `STRIPE_BITS`, R68). -/
abbrev Byte := BitVec 8

/-- A column index, 0 to 127: 7 bits because `COLS = 2^7` (R6, R13). -/
abbrev Column := BitVec 7

/-- A pixel row, 0 to 63: 6 bits because `ROWS = 2^6` (R6). -/
abbrev Row := BitVec 6

/-- A stripe index within a column, 0 to 7: 3 bits because `STRIPES = 2^3` (R6, R13). -/
abbrev StripeIx := BitVec 3

end Sys2Proof
end

