-- ==== Sys2Proof/Config.lean ====
section
/-! DEFINITION. What an implementation or a platform fixes: the parameters of R6, and the values the spec leaves
open, each an opaque constant of which no proof can see a value (R12, R23, R24; U4, U6, U10, U14). -/

namespace Sys2Proof.Config

/-- `COLS` (R6). The spec calls the literal unaudited (U14). -/
abbrev cols : Nat := 128

/-- `ROWS` (R6). The spec calls the literal unaudited (U14). -/
abbrev rows : Nat := 64

/-- `STRIPES`, the stripes of a column (R6). -/
abbrev stripes : Nat := 8

/-- `STRIPE_BITS`, the pixel rows of a stripe (R6). -/
abbrev stripeBits : Nat := 8

/-- `SPRITE_H`, the rows of a sprite (R6, R68). -/
abbrev spriteH : Nat := 8

/-- `W_MAX`, the widest sprite: the width field has 8 bits (R6, R48). -/
abbrev wMax : Nat := 255

/-- `FB_INIT`: the framebuffer's contents at power-up, OPEN (R6, R24, U4). A free value: no proof can
assume any byte of it. DESIGN CHOICE, log entry 3. -/
opaque fbInit : Column → StripeIx → Byte

/-- One less than `RSP_DEPTH`, which is OPEN and at least 1 (R12, U10). A free value.
DESIGN CHOICE, log entry 4. -/
opaque rspDepthLessOne : Nat

/-- `RSP_DEPTH`, the words the response queue can hold (R12, U10). -/
def rspDepth : Nat := rspDepthLessOne + 1

/-- The latch `bx0` after the `k`-th reset: unspecified (R23, U6). A free value. DESIGN CHOICE, log entry 5. -/
opaque bx0AfterReset : Nat → Column

/-- The latch `by0` after the `k`-th reset: unspecified (R23, U6). A free value. DESIGN CHOICE, log entry 5. -/
opaque by0AfterReset : Nat → Row

/-- The latch `bw` after the `k`-th reset: unspecified (R23, U6). A free value. DESIGN CHOICE, log entry 5. -/
opaque bwAfterReset : Nat → BitVec 8

/-- The latch `bill` after the `k`-th reset: unspecified (R23, U6). A free value. DESIGN CHOICE, log entry 5. -/
opaque billAfterReset : Nat → Bool

/-- The latch `bi` after the `k`-th reset: unspecified (R23, U6). A free value. DESIGN CHOICE, log entry 5. -/
opaque biAfterReset : Nat → BitVec 8

/-- The latch `bj` after the `k`-th reset: unspecified (R23, U6). A free value. DESIGN CHOICE, log entry 5. -/
opaque bjAfterReset : Nat → BitVec 3

/-- The latch `pay` after the `k`-th reset: unspecified (R23, U6). A free value. DESIGN CHOICE, log entry 5. -/
opaque payAfterReset : Nat → Word

/-- The latch `rmw` after the `k`-th reset: unspecified (R23, U6). A free value. DESIGN CHOICE, log entry 5. -/
opaque rmwAfterReset : Nat → Byte

end Sys2Proof.Config
end

