-- ==== Sys2Proof/Machine/State.lean ====
section
/-! DEFINITION. The state of the machine: everything the spec gives PSB, the framebuffer behind its stripe port, its two
streams, its reset input, and the model's own schedule of what the other agents do (R5, R11 to R24, R32, R97). -/

namespace Sys2Proof.Machine

/-- A stripe-port event, as R32 writes them. -/
inductive StripeEvent where
  /-- `Rd(c, s) -> v`: a read of stripe (c, s) that returned `v`. -/
  | rd (c : Column) (st : StripeIx) (v : Byte)
  /-- `Wr(c, s, v)`: a write of `v` to stripe (c, s). -/
  | wr (c : Column) (st : StripeIx) (v : Byte)
  deriving DecidableEq, Repr

/-- The framebuffer as data: the stripes written since power-up, each with its byte, keys strictly rising. A stripe
that is not listed has not been written and holds its byte of `FB_INIT` (R14, R24; log entries 3, 7, 8). -/
abbrev Memory := List Host.Cell

/-- The two sticky flags of STATUS; its other 30 bits are hardwired 0 and are not stored (R16). -/
structure Status where
  ill : Bool
  oor : Bool
  deriving DecidableEq, Repr

/-- `phase`: at a command boundary, or inside a DRAW_SPRITE (R22). A one-word command whose stripe access is outstanding
stands in `idle`, with the access saying that it is no boundary (DESIGN CHOICE, log entry 27). -/
inductive Phase where
  | idle
  | blit
  deriving DecidableEq, Repr

/-- The sequencer's latches (R22). -/
structure Latches where
  /-- The X0 field of the DRAW_SPRITE being executed. -/
  bx0 : Column
  /-- Its Y0 field. -/
  by0 : Row
  /-- Its W field. -/
  bw : BitVec 8
  /-- Its header was illegal: its payload is being consumed and discarded (R78). -/
  bill : Bool
  /-- The index of the sprite column being drawn. -/
  bi : BitVec 8
  /-- The index of the bit (pixel row within the column) being drawn. -/
  bj : BitVec 3
  /-- The payload word holding columns `4*(bi/4)` to `4*(bi/4)+3`. -/
  pay : Word
  /-- The byte returned by the read half of the last pixel read-modify-write (R65). -/
  rmw : Byte
  deriving DecidableEq, Repr

/-- The stripe access that PSB has issued and the stripe store has not yet completed, with what PSB does with it: at most
one is outstanding (R13). Only a stripe store that keeps PSB waiting leaves one (R108; log entry 27). -/
inductive PendingAccess where
  /-- The read of READ_STRIPE c, st (R62). -/
  | readStripe (c : Column) (st : StripeIx)
  /-- The write of WRITE_STRIPE c, st, v (R63). -/
  | writeStripe (c : Column) (st : StripeIx) (v : Byte)
  /-- The read of GET_PIXEL x, y (R66). -/
  | getPixel (x : Column) (y : Row)
  /-- The read half of PixelWrite(x, y, v), of a SET_PIXEL or of a sprite's pixel (R65, R71). -/
  | pixelRead (x : Column) (y : Row) (v : Bool)
  /-- The write half of PixelWrite(x, y, v); the byte read stands in the latch `rmw` (R65, R71). -/
  | pixelWrite (x : Column) (y : Row) (v : Bool)
  deriving DecidableEq, Repr

/-- What the agents other than PSB do to the machine, one move each, and the turn of PSB itself (R5, R11, R12, R39, R97,
R108). The list of them in State is the schedule (log entry 2). DESIGN CHOICE, log entry 27: the spec gives no moment at
which the stripe store completes an access; it answers at once, within PSB's turn, until the move `storeStalls`, and from
then on each access waits for a move `storeCompletes` or for `storeAnswers`. -/
inductive Input where
  /-- PSB's turn: it goes on as far as it can in one command. -/
  | psbTurn
  /-- The requester presents a word on `cmd_in` (R11). -/
  | presentWord (w : Word)
  /-- The requester takes the response at the head of the queue; while there is none it waits (R12, R106). -/
  | takeResponse
  /-- Another agent writes a stripe, which it may do only while PSB is idle (R39). -/
  | otherWrite (c : Column) (st : StripeIx) (v : Byte)
  /-- Reset is asserted (R97), after PSB has taken at most `words` more words and made at most `events` more
  stripe events of the command it is at (R99, U5, U9). -/
  | assertReset (events words : Nat)
  /-- Reset is released (R97). -/
  | releaseReset
  /-- From now on the stripe store keeps every access of PSB waiting (R5, R13, R108). -/
  | storeStalls
  /-- The stripe store completes the access that is outstanding, if any, and keeps the next one waiting (R13, R108). -/
  | storeCompletes
  /-- From now on the stripe store answers at once, the access that is outstanding included (R13, R108). -/
  | storeAnswers
  deriving DecidableEq, Repr

/-- The reasons a step could stop with a fault. There are none: PSB never traps and never stops because of an
error (R81), and no access of its can fail (R13, R33, R84). Nothing raises one, which is exact. -/
inductive Fault where
  deriving DecidableEq, Repr

/-- The reasons a step has no meaning. -/
inductive Refusal where
  /-- Raised by an arm of `exec` for a command that has no meaning yet. Safe: the machine stops. -/
  | notModelled (mnemonic : String)
  /-- Raised by the input `otherWrite` while PSB is inside a command (phase BLIT, or a stripe access outstanding), which
  breaks the platform's premise and which the spec does not define (R39, U7). DESIGN CHOICE, log entry 28: raised also in
  phase BLIT after the command's last stripe event. Safe: the machine stops. -/
  | secondWriterDuringCommand
  deriving DecidableEq, Repr

/-- The whole state, plain data. INVENTORY.md, under '## State', lists each piece with its rule. -/
structure State where
  /-- STATUS (R16). -/
  status : Status
  /-- `phase` (R22). -/
  phase : Phase
  /-- The sequencer's latches (R22). -/
  seq : Latches
  /-- The stripe access issued and not yet completed (R13, R108). -/
  outstanding : Option PendingAccess
  /-- The response queue RQ, head first (R12, R19). -/
  rq : List Word
  /-- The command pointer: words taken since reset (R20). -/
  cp : Nat
  /-- The framebuffer FB (R14). -/
  fb : Memory
  /-- The access trace, oldest event first (R32). -/
  trace : List StripeEvent
  /-- The words presented on `cmd_in` and not yet taken, next one first (R11). -/
  cmdIn : List Word
  /-- The response words the requester has taken, oldest first (R12). -/
  rspTaken : List Word
  /-- Reset is asserted (R97). -/
  rst : Bool
  /-- The stripe store keeps accesses waiting (R5, R13, R108; log entry 27). -/
  storeStalls : Bool
  /-- The schedule of the other agents' moves, next one first; PSB moves when it is empty (log entry 2). -/
  inputs : List Input
  /-- The resets so far, to which the free values of the latches are applied (R23, U6, log entry 5). -/
  resets : Nat
  deriving DecidableEq, Repr

/-- The latches after the `k`-th reset: unspecified, each a free value (R23, U6). -/
def latchesAfterReset (k : Nat) : Latches where
  bx0 := Config.bx0AfterReset k
  by0 := Config.by0AfterReset k
  bw := Config.bwAfterReset k
  bill := Config.billAfterReset k
  bi := Config.biAfterReset k
  bj := Config.bjAfterReset k
  pay := Config.payAfterReset k
  rmw := Config.rmwAfterReset k

/-- The machine right after reset at power-up, reset released: the values of R23, no stripe written (R24), no word
presented, nothing scheduled, no access outstanding and a stripe store that answers at once (log entries 3, 5, 6, 27). -/
def State.reset : State where
  status := ⟨false, false⟩
  phase := .idle
  seq := latchesAfterReset 0
  outstanding := none
  rq := []
  cp := 0
  fb := []
  trace := []
  cmdIn := []
  rspTaken := []
  rst := false
  storeStalls := false
  inputs := []
  resets := 0

end Sys2Proof.Machine
end

