-- ==== Sys2Proof/Machine/Flags.lean ====
section
/-! DEFINITION. STATUS and its two sticky flags: the word a read returns, and the only three ways it changes (R16, R17,
R82, R83, R80). -/

namespace Sys2Proof.Machine

/-- STATUS as a word: bit 0 ILL, bit 1 OOR, bits 31:2 hardwired 0 (R16, R52). -/
def Status.word (f : Status) : Word :=
  (BitVec.ofBool f.oor).setWidth 32 <<< 1 ||| (BitVec.ofBool f.ill).setWidth 32

/-- Both flags 0: after reset and after CLEAR_STATUS (R23, R80). -/
def Status.clear : Status := ⟨false, false⟩

/-- `STATUS.ILL <- 1`, OOR as it was (R17, R82). -/
def Status.setIll (f : Status) : Status := ⟨true, f.oor⟩

/-- `STATUS.OOR <- 1`, ILL as it was (R17, R83). -/
def Status.setOor (f : Status) : Status := ⟨f.ill, true⟩

end Sys2Proof.Machine
end

