-- ==== Sys2Proof/Syntax.lean ====
section
/-! DEFINITION. The seven commands of PSB (R50), one constructor for each row of the opcode table. Every operand is a
field of the command word, at its own width, so an out-of-range operand cannot be written down (R10, R57, U1).
An illegal header is no command: the decoder rejects it by name. The payload words of DRAW_SPRITE are no
operand of the header: PSB takes them from its command stream while it draws (R77). -/

namespace Sys2Proof

/-- A PSB command header with its operands (R50, R57). -/
inductive Instr where
  /-- SET_PIXEL x, y, v (format P, R46, R65). -/
  | setPixel (x : Column) (y : Row) (v : Bool)
  /-- GET_PIXEL x, y (format P, R46, R66). -/
  | getPixel (x : Column) (y : Row)
  /-- READ_STRIPE c, s (format S, R47, R62). -/
  | readStripe (c : Column) (st : StripeIx)
  /-- WRITE_STRIPE c, s, data (format S, R47, R63). -/
  | writeStripe (c : Column) (st : StripeIx) (data : Byte)
  /-- DRAW_SPRITE x0, y0 with a width of w columns (format B, R48, R69). -/
  | drawSprite (x0 : Column) (y0 : Row) (w : BitVec 8)
  /-- READ_STATUS (format Z, R49, R79). -/
  | readStatus
  /-- CLEAR_STATUS (format Z, R49, R80). -/
  | clearStatus
  deriving DecidableEq, Repr

end Sys2Proof
end

