-- ==== Sys2Proof/WellFormed.lean ====
section
/-! DEFINITION. When a whole command and an assembler line are well formed. An `Instr` has no check of its own: its
fields have exactly the widths of the format (R46 to R49), so every one is encodable. What needs a check is the
framing of a command, a DRAW_SPRITE header followed by exactly ceil(W/4) payload words (R48, R105), and the
operands of an assembler line, which are numbers of any size (R58). -/

namespace Sys2Proof

/-- `NP = ceil(W / 4)`, the payload words of a sprite of width `w` (R48, R51). -/
def spritePayloadWords (w : BitVec 8) : Nat := (w.toNat + 3) / 4

/-- How many payload words follow the header of a command (R50 "words", R51). -/
def Instr.payloadWords : Instr → Nat
  | .setPixel _ _ _ => 0
  | .getPixel _ _ => 0
  | .readStripe _ _ => 0
  | .writeStripe _ _ _ => 0
  | .drawSprite _ _ w => spritePayloadWords w
  | .readStatus => 0
  | .clearStatus => 0

/-- A whole command: its header and the payload words that follow it (R11, R48). -/
structure Command where
  header : Instr
  payload : List Word
  deriving DecidableEq, Repr

/-- A command carries exactly the payload words its header calls for (R48, R51, R105). -/
def Command.wf (c : Command) : Bool := c.payload.length == c.header.payloadWords

/-- A line of PSB assembler, its operands numbers of any size (R58), with the pseudo-instructions of R59. -/
inductive AsmLine where
  | setPixel (x y v : Nat)
  | getPixel (x y : Nat)
  | readStripe (c st : Nat)
  | writeStripe (c st data : Nat)
  | drawSprite (x0 y0 : Nat) (bytes : List Nat)
  | readStatus
  | clearStatus
  /-- `.word w`: a raw 32-bit word. -/
  | rawWord (w : Nat)
  | pset (x y : Nat)
  | pclr (x y : Nat)
  | clearColumn (c : Nat)
  | cls
  deriving DecidableEq, Repr

/-- An assembler refuses an operand outside its field: `x > 127`, `y > 63`, `c > 127`, `s > 7`, `v > 1`,
`data > 255`, more than 255 sprite bytes (R58). -/
def AsmLine.wf : AsmLine → Bool
  | .setPixel x y v => decide (x < Config.cols) && decide (y < Config.rows) && decide (v ≤ 1)
  | .getPixel x y => decide (x < Config.cols) && decide (y < Config.rows)
  | .readStripe c st => decide (c < Config.cols) && decide (st < Config.stripes)
  | .writeStripe c st data =>
      decide (c < Config.cols) && decide (st < Config.stripes) && decide (data ≤ 255)
  | .drawSprite x0 y0 bytes =>
      decide (x0 < Config.cols) && decide (y0 < Config.rows)
        && decide (bytes.length ≤ Config.wMax) && bytes.all (fun b => decide (b ≤ 255))
  | .readStatus => true
  | .clearStatus => true
  | .rawWord w => decide (w < 2 ^ 32)
  | .pset x y => decide (x < Config.cols) && decide (y < Config.rows)
  | .pclr x y => decide (x < Config.cols) && decide (y < Config.rows)
  | .clearColumn c => decide (c < Config.cols)
  | .cls => true

end Sys2Proof
end

