-- ==== Sys2Proof/Decode.lean ====
section
/-! DEFINITION. Decoding and encoding of command words: the opcode map with its matches and masks (R50), the decoding
procedure, total on every 32-bit word (R51), the encoders (R60), the packing of sprite bytes into payload words
(R29, R48), whole commands read from a stream, the byte order of a byte-wide link (R29), and the assembler (R58, R59). -/

namespace Sys2Proof

/-! The fields of a header (R45 to R49). -/

/-- `OP = CW[31:28]` (R45). -/
def fieldOp (cw : Word) : BitVec 4 := cw.extractLsb' 28 4

/-- Bits 6:0: `X`, `COL` or `X0` (R46, R47, R48). -/
def fieldX (cw : Word) : Column := cw.extractLsb' 0 7

/-- Bits 13:8: `Y` or `Y0` (R46, R48). -/
def fieldY (cw : Word) : Row := cw.extractLsb' 8 6

/-- Bit 16: `V` (R46). -/
def fieldV (cw : Word) : Bool := cw.getLsbD 16

/-- Bits 10:8: `STR` (R47). -/
def fieldStr (cw : Word) : StripeIx := cw.extractLsb' 8 3

/-- Bits 23:16: `DATA` or `W` (R47, R48). -/
def fieldData (cw : Word) : BitVec 8 := cw.extractLsb' 16 8

/-! The opcode map (R50). -/

/-- One row of the opcode map: a header is that command exactly when `CW & mask = match` (R50). -/
structure OpcodeRow where
  mnemonic : String
  pattern : Word
  mask : Word
  deriving DecidableEq, Repr

/-- `CW & mask = match` (R50). -/
def OpcodeRow.accepts (r : OpcodeRow) (cw : Word) : Bool := (cw &&& r.mask) == r.pattern

def rowSetPixel : OpcodeRow := ⟨"SET_PIXEL", 0x10000000#32, 0xFFFEC080#32⟩
def rowGetPixel : OpcodeRow := ⟨"GET_PIXEL", 0x20000000#32, 0xFFFFC080#32⟩
def rowReadStripe : OpcodeRow := ⟨"READ_STRIPE", 0x30000000#32, 0xFFFFF880#32⟩
def rowWriteStripe : OpcodeRow := ⟨"WRITE_STRIPE", 0x40000000#32, 0xFF00F880#32⟩
def rowDrawSprite : OpcodeRow := ⟨"DRAW_SPRITE", 0x50000000#32, 0xFF00C080#32⟩
def rowReadStatus : OpcodeRow := ⟨"READ_STATUS", 0x60000000#32, 0xFFFFFFFF#32⟩
def rowClearStatus : OpcodeRow := ⟨"CLEAR_STATUS", 0x70000000#32, 0xFFFFFFFF#32⟩

/-- The seven rows of the opcode map, by opcode (R50). -/
def opcodeTable : List OpcodeRow :=
  [rowSetPixel, rowGetPixel, rowReadStripe, rowWriteStripe, rowDrawSprite, rowReadStatus, rowClearStatus]

/-- The row of the opcode map a command belongs to (R50). -/
def Instr.row : Instr → OpcodeRow
  | .setPixel _ _ _ => rowSetPixel
  | .getPixel _ _ => rowGetPixel
  | .readStripe _ _ => rowReadStripe
  | .writeStripe _ _ _ => rowWriteStripe
  | .drawSprite _ _ _ => rowDrawSprite
  | .readStatus => rowReadStatus
  | .clearStatus => rowClearStatus

/-! Decoding (R51). -/

/-- Why a header is no command: the named rejections of the decoding procedure (R51, R53, R54). -/
inductive Reject where
  /-- `OP = 0x0` or `0x8 .. 0xF` (R54): `ILLEGAL`, length 1. -/
  | unassignedOpcode (op : BitVec 4)
  /-- An assigned opcode other than 0x5 with a bit that must be 0 set (R53): `ILLEGAL`, length 1. -/
  | reservedBits (op : BitVec 4)
  /-- A DRAW_SPRITE header with a reserved bit set (R53, R78): `ILLEGAL_BLIT`, its payload still follows. -/
  | illegalBlit (w : BitVec 8)
  deriving DecidableEq, Repr

/-- The decoding procedure on one header word (R51). -/
def decode (cw : Word) : Except Reject Instr :=
  if fieldOp cw = 1#4 then
    if rowSetPixel.accepts cw then .ok (.setPixel (fieldX cw) (fieldY cw) (fieldV cw))
    else .error (.reservedBits 1#4)
  else if fieldOp cw = 2#4 then
    if rowGetPixel.accepts cw then .ok (.getPixel (fieldX cw) (fieldY cw))
    else .error (.reservedBits 2#4)
  else if fieldOp cw = 3#4 then
    if rowReadStripe.accepts cw then .ok (.readStripe (fieldX cw) (fieldStr cw))
    else .error (.reservedBits 3#4)
  else if fieldOp cw = 4#4 then
    if rowWriteStripe.accepts cw then .ok (.writeStripe (fieldX cw) (fieldStr cw) (fieldData cw))
    else .error (.reservedBits 4#4)
  else if fieldOp cw = 5#4 then
    if rowDrawSprite.accepts cw then .ok (.drawSprite (fieldX cw) (fieldY cw) (fieldData cw))
    else .error (.illegalBlit (fieldData cw))
  else if fieldOp cw = 6#4 then
    if rowReadStatus.accepts cw then .ok .readStatus else .error (.reservedBits 6#4)
  else if fieldOp cw = 7#4 then
    if rowClearStatus.accepts cw then .ok .clearStatus else .error (.reservedBits 7#4)
  else .error (.unassignedOpcode (fieldOp cw))

/-- The length of the command a header begins, legal or not: it depends on `OP` and `W` only (R51). -/
def commandLength (cw : Word) : Nat :=
  if fieldOp cw = 5#4 then 1 + spritePayloadWords (fieldData cw) else 1

/-! Encoding (R60). -/

/-- The header word of a command: R60's encoding functions. -/
def encode : Instr → Word
  | .setPixel x y v =>
      0x10000000#32 ||| (BitVec.ofBool v).setWidth 32 <<< 16 ||| y.setWidth 32 <<< 8 ||| x.setWidth 32
  | .getPixel x y => 0x20000000#32 ||| y.setWidth 32 <<< 8 ||| x.setWidth 32
  | .readStripe c st => 0x30000000#32 ||| st.setWidth 32 <<< 8 ||| c.setWidth 32
  | .writeStripe c st data =>
      0x40000000#32 ||| data.setWidth 32 <<< 16 ||| st.setWidth 32 <<< 8 ||| c.setWidth 32
  | .drawSprite x0 y0 w =>
      0x50000000#32 ||| w.setWidth 32 <<< 16 ||| y0.setWidth 32 <<< 8 ||| x0.setWidth 32
  | .readStatus => 0x60000000#32
  | .clearStatus => 0x70000000#32

/-! The payload of DRAW_SPRITE (R29, R48). -/

/-- `enc_payload`: four column bytes in one word, the lowest-index column in the least significant byte
(R29, R48, R60). -/
def packPayloadWord (b0 b1 b2 b3 : Byte) : Word :=
  b0.setWidth 32 ||| b1.setWidth 32 <<< 8 ||| b2.setWidth 32 <<< 16 ||| b3.setWidth 32 <<< 24

/-- The payload words of a list of column bytes, padding bytes 0 (R48, R58). -/
def packPayload : List Byte → List Word
  | [] => []
  | [b0] => [packPayloadWord b0 0#8 0#8 0#8]
  | [b0, b1] => [packPayloadWord b0 b1 0#8 0#8]
  | [b0, b1, b2] => [packPayloadWord b0 b1 b2 0#8]
  | b0 :: b1 :: b2 :: b3 :: rest => packPayloadWord b0 b1 b2 b3 :: packPayload rest

/-- `pay[8k+7 : 8k]`: the byte at position `k` (0 to 3) of a payload word (R48, R69). -/
def payloadByte (pay : Word) (k : Nat) : Byte := pay.extractLsb' (8 * k) 8

/-- Column byte `i` of a sprite: `b_(4m+k)` is byte `k` of payload word `m` (R29, R48, R68). A word that is not
there reads as 0; no rule reads one. -/
def spriteByte (payload : List Word) (i : Nat) : Byte := payloadByte (payload.getD (i / 4) 0#32) (i % 4)

/-! Whole commands in a stream (R51, R56). -/

/-- The words of a whole command: the header, then its payload (R48). -/
def Command.words (c : Command) : List Word := encode c.header :: c.payload

/-- The command a stream of words begins with and the words after it. `none` when the stream is empty, its first
word is no legal header, or its payload is short (R51, R105). -/
def decodeCommand : List Word → Option (Command × List Word)
  | [] => none
  | cw :: rest =>
    match decode cw with
    | .error _ => none
    | .ok i =>
      if rest.length < i.payloadWords then none
      else some (⟨i, rest.take i.payloadWords⟩, rest.drop i.payloadWords)

/-! A byte-wide link (R29). -/

/-- The bytes of a word on a byte-wide link, in the order sent: least significant byte first (R29). -/
def linkBytes (w : Word) : List Byte :=
  [w.extractLsb' 0 8, w.extractLsb' 8 8, w.extractLsb' 16 8, w.extractLsb' 24 8]

/-- The words a byte-wide link carries, four bytes each, the first sent the least
significant. An incomplete last word is not there yet (R29, R31). -/
def wordsOfLink : List Byte → List Word
  | b0 :: b1 :: b2 :: b3 :: rest => packPayloadWord b0 b1 b2 b3 :: wordsOfLink rest
  | _ => []

/-! The assembler (R58, R59). -/

/-- `CLEAR_COLUMN c`: WRITE_STRIPE c, s, 0 for s = 0 to 7, s ascending (R59). -/
def clearColumnWords (c : Column) : List Word :=
  (List.range Config.stripes).map fun s => encode (.writeStripe c (BitVec.ofNat 3 s) 0#8)

/-- `CLS`: CLEAR_COLUMN for c = 0 to 127, c outer and s inner (R59). -/
def clsWords : List Word :=
  (List.range Config.cols).flatMap fun c => clearColumnWords (BitVec.ofNat 7 c)

/-- The words of an assembler line whose operands are in range (R58, R59, R60). -/
def AsmLine.words : AsmLine → List Word
  | .setPixel x y v => [encode (.setPixel (BitVec.ofNat 7 x) (BitVec.ofNat 6 y) (v == 1))]
  | .getPixel x y => [encode (.getPixel (BitVec.ofNat 7 x) (BitVec.ofNat 6 y))]
  | .readStripe c st => [encode (.readStripe (BitVec.ofNat 7 c) (BitVec.ofNat 3 st))]
  | .writeStripe c st data =>
      [encode (.writeStripe (BitVec.ofNat 7 c) (BitVec.ofNat 3 st) (BitVec.ofNat 8 data))]
  | .drawSprite x0 y0 bytes =>
      encode (.drawSprite (BitVec.ofNat 7 x0) (BitVec.ofNat 6 y0) (BitVec.ofNat 8 bytes.length))
        :: packPayload (bytes.map (BitVec.ofNat 8))
  | .readStatus => [encode .readStatus]
  | .clearStatus => [encode .clearStatus]
  | .rawWord w => [BitVec.ofNat 32 w]
  | .pset x y => [encode (.setPixel (BitVec.ofNat 7 x) (BitVec.ofNat 6 y) true)]
  | .pclr x y => [encode (.setPixel (BitVec.ofNat 7 x) (BitVec.ofNat 6 y) false)]
  | .clearColumn c => clearColumnWords (BitVec.ofNat 7 c)
  | .cls => clsWords

/-- The assembler: it refuses a line with an operand outside its field (R58). -/
def assemble (l : AsmLine) : Option (List Word) := if l.wf then some l.words else none

/-! The opcode table's numbering of an instruction's bits, for the host. -/

/-- The 32-bit words of the `n` words whose bits are `w`: bit 0 of `w` is bit 0 of the first word. -/
def wordsOfBits : Nat → Nat → List Word
  | 0, _ => []
  | n + 1, w => BitVec.ofNat 32 w :: wordsOfBits n (w / 2 ^ 32)

/-- The words of an instruction whose first `nbits` bits are `w`: every bit above is 0, up to the length that the
header calls for (R51). -/
def tableWords (nbits w : Nat) : List Word :=
  wordsOfBits (max ((nbits + 31) / 32) (commandLength (BitVec.ofNat 32 (w % 2 ^ nbits)))) (w % 2 ^ nbits)

/-- The instruction the decoder reads from an instruction whose bits are `w`, bit 0 the least significant bit of the
first word. `none` where the decoder rejects the header. -/
def decodeTableWord (nbits w : Nat) : Option Instr :=
  match tableWords nbits w with
  | [] => none
  | cw :: _ =>
    match decode cw with
    | .ok i => some i
    | .error _ => none

end Sys2Proof
end

