-- ==== Sys2Proof/Machine/Operands.lean ====
section
/-! DEFINITION. The operand arithmetic of the commands: pixel addresses (R64), the wide sums of sprite coordinates
and the screen test (R69, R72), and the zero extensions of response words (R52). -/

namespace Sys2Proof.Machine

/-- `y / 8 = y[5:3]`, the stripe that holds pixel row `y` (R64). -/
def pixelStripe (y : Row) : StripeIx := y.extractLsb' 3 3

/-- `y mod 8 = y[2:0]`, the bit of the stripe that holds pixel row `y` (R64). -/
def pixelBit (y : Row) : BitVec 3 := y.extractLsb' 0 3

/-- `1 << b`: exactly one bit set (R64). -/
def bitMask (b : BitVec 3) : Byte := 1#8 <<< b.toNat

/-- The stripe byte with bit `b` set or cleared and every other bit as it was (R65). -/
def withBit (old : Byte) (b : BitVec 3) (v : Bool) : Byte :=
  if v then old ||| bitMask b else old &&& ~~~(bitMask b)

/-- `px = x0 + i`, a 9-bit unsigned sum that never wraps (R69, R72). -/
def spriteX (x0 : Column) (i : BitVec 8) : BitVec 9 := x0.setWidth 9 + i.setWidth 9

/-- `py = y0 + j`, a 7-bit unsigned sum that never wraps (R69, R72). -/
def spriteY (y0 : Row) (j : BitVec 3) : BitVec 7 := y0.setWidth 7 + j.setWidth 7

/-- `px < 128 and py < 64` (R69, R72). -/
def onScreen (px : BitVec 9) (py : BitVec 7) : Bool :=
  decide (px.toNat < Config.cols) && decide (py.toNat < Config.rows)

/-- `zext_32` of a pixel (R52, R66). -/
def pixelResponse (v : Bool) : Word := (BitVec.ofBool v).setWidth 32

/-- `zext_32` of a stripe byte (R52, R62). -/
def byteResponse (v : Byte) : Word := v.setWidth 32

end Sys2Proof.Machine
end

