-- ==== Sys2Proof/Machine/Ops.lean ====
section
/-! DEFINITION. The named operations over the state: the framebuffer and its two views, the stripe port with its trace,
the pixel read-modify-write, the two streams, and the two error conditions. PSB has no trap: its one shared "exception"
operation is `raiseIll`, which records the condition in STATUS and transfers control nowhere, and there is no return
from it (R81, R82, R87, R88). -/

namespace Sys2Proof.Machine

/-! The framebuffer as a list of written stripes (log entries 7, 8). -/

/-- The key of stripe (c, s) in the list. The spec gives no linear address (R26); no command sees the key.
DESIGN CHOICE, log entry 7. -/
def stripeKey (c : Column) (st : StripeIx) : Nat := 8 * c.toNat + st.toNat

/-- The byte listed under a key; `none` where no write has been made since power-up. -/
def Memory.lookup : Memory → Nat → Option Byte
  | [], _ => none
  | (k, b) :: rest, a => if k = a then some b else Memory.lookup rest a

/-- The list with a byte written under a key, keys still rising. -/
def Memory.insert : Memory → Nat → Byte → Memory
  | [], a, v => [(a, v)]
  | (k, b) :: rest, a, v =>
    if k = a then (a, v) :: rest
    else if a < k then (a, v) :: (k, b) :: rest
    else (k, b) :: Memory.insert rest a v

/-- The canonical form: keys strictly rising, each the key of a stripe. No entry can equal what an unlisted stripe
reads as at this level, which is `none`: not written (log entry 8). -/
abbrev Memory.wf (m : Memory) : Prop :=
  List.Pairwise (fun a b => a.1 < b.1) m ∧ ∀ e ∈ m, e.1 < Config.cols * Config.stripes

/-- `FB[c][s]` of a list: the byte written, else the byte of `FB_INIT` (R14, R24, R38). -/
def Memory.stripe (m : Memory) (c : Column) (st : StripeIx) : Byte :=
  (m.lookup (stripeKey c st)).getD (Config.fbInit c st)

/-- `FB[c][s] <- v` on a list (R8, R61). -/
def Memory.setStripe (m : Memory) (c : Column) (st : StripeIx) (v : Byte) : Memory :=
  m.insert (stripeKey c st) v

/-- Stripe (c, s) has been written since power-up (U4). -/
def Memory.written (m : Memory) (c : Column) (st : StripeIx) : Bool := (m.lookup (stripeKey c st)).isSome

/-- The framebuffer after a list of events: each write in turn, a read changes nothing (R32, R35). -/
def Memory.replay : Memory → List StripeEvent → Memory
  | m, [] => m
  | m, .rd _ _ _ :: rest => Memory.replay m rest
  | m, .wr c st v :: rest => Memory.replay (m.setStripe c st v) rest

/-- `FB[c][s]` (R14). -/
def State.stripe (s : State) (c : Column) (st : StripeIx) : Byte := s.fb.stripe c st

/-- `pixel(x, y) = FB[x][y / 8][y mod 8]`: the pixel view, a function of FB and no second copy (R15, R28). -/
def State.pixel (s : State) (x : Column) (y : Row) : Bool :=
  (s.stripe x (pixelStripe y)).getLsbD (pixelBit y).toNat

/-! The stripe port (R13, R32, R61). -/

/-- An event is recorded at the end of the trace (R32). -/
def State.record (s : State) (e : StripeEvent) : State := { s with trace := s.trace ++ [e] }

/-- `StripeRead(c, s)`: the byte, and the state with the read recorded (R61). It is the access as it completes; DESIGN
CHOICE, log entry 27: when the stripe store completes it is the store's to say (`Input`). -/
def State.stripeRead (s : State) (c : Column) (st : StripeIx) : Byte × State :=
  (s.stripe c st, s.record (.rd c st (s.stripe c st)))

/-- `FB[c][s] <- v` (R8). -/
def State.setStripe (s : State) (c : Column) (st : StripeIx) (v : Byte) : State :=
  { s with fb := s.fb.setStripe c st v }

/-- `StripeWrite(c, s, v)` (R61). It is the access as it completes; DESIGN CHOICE, log entry 27, as for `stripeRead`. -/
def State.stripeWrite (s : State) (c : Column) (st : StripeIx) (v : Byte) : State :=
  (s.setStripe c st v).record (.wr c st v)

/-- The latch `rmw` takes the byte that a read returned (R22, R65). -/
def State.latchRmw (s : State) (v : Byte) : State := { s with seq := { s.seq with rmw := v } }

/-- The read half of `PixelWrite(x, y, v)`: the pixel's stripe into `rmw` (R65). -/
def State.pixelRead (s : State) (x : Column) (y : Row) : State :=
  let r := s.stripeRead x (pixelStripe y)
  r.2.latchRmw r.1

/-- The write half of `PixelWrite(x, y, v)`: `rmw` with the pixel's bit set or cleared (R65). -/
def State.pixelStore (s : State) (x : Column) (y : Row) (v : Bool) : State :=
  s.stripeWrite x (pixelStripe y) (withBit s.seq.rmw (pixelBit y) v)

/-- `PixelWrite(x, y, v)`: exactly one read and one write of the pixel's stripe (R65). -/
def State.pixelWrite (s : State) (x : Column) (y : Row) (v : Bool) : State := (s.pixelRead x y).pixelStore x y v

/-- PSB has issued an access that the stripe store keeps waiting (R13, R108). -/
def State.await (s : State) (a : PendingAccess) : State := { s with outstanding := some a }

/-- No access is outstanding any more (R13). -/
def State.settle (s : State) : State := { s with outstanding := none }

/-- PSB is inside a command: in phase BLIT, or with an access outstanding (R22). DESIGN CHOICE, log entry 28: this stands
for R39's window, which ends at the command's last stripe event, and outlasts it where phase BLIT does. -/
def State.inCommand (s : State) : Bool := s.phase == .blit || s.outstanding.isSome

/-! The streams (R11, R12, R19, R20). -/

/-- PSB takes the next word of `cmd_in`: it is consumed and `cp` counts it (R11, R20). -/
def State.takeWord (s : State) : State := { s with cmdIn := s.cmdIn.tail, cp := s.cp + 1 }

/-- `Respond(v)`: `v` goes to the tail of RQ (R8, R19). -/
def State.respond (s : State) (v : Word) : State := { s with rq := s.rq ++ [v] }

/-- What READ_STRIPE does when its read completes: the byte is the response (R62). -/
def State.answerStripe (s : State) (c : Column) (st : StripeIx) : State :=
  let r := s.stripeRead c st
  r.2.respond (byteResponse r.1)

/-- What GET_PIXEL does when its read completes: the pixel's bit is the response (R66). -/
def State.answerPixel (s : State) (x : Column) (y : Row) : State :=
  let r := s.stripeRead x (pixelStripe y)
  r.2.respond (pixelResponse (r.1.getLsbD (pixelBit y).toNat))

/-- A queue holds fewer words than one more than `n`. It reads the list before the number, so that an empty queue has
room whatever the OPEN depth is. -/
def queueHasRoom : List Word → Nat → Bool
  | [], _ => true
  | _ :: _, 0 => false
  | _ :: rest, n + 1 => queueHasRoom rest n

/-- RQ holds fewer than `RSP_DEPTH` words (R12). -/
def State.rqHasRoom (s : State) : Bool := queueHasRoom s.rq Config.rspDepthLessOne

/-! The error conditions (R82, R83) and the clear (R80, R88). -/

/-- `raise ILL()`: STATUS.ILL <- 1 and nothing else (R82). The command's length is consumed by whoever took its
header (R51, R78). -/
def State.raiseIll (s : State) : State := { s with status := s.status.setIll }

/-- `raise OOR(px, py)`: STATUS.OOR <- 1 and nothing else; the coordinates are not recorded (R83). -/
def State.raiseOor (s : State) : State := { s with status := s.status.setOor }

/-- Both flags <- 0: CLEAR_STATUS, the only way back to 0 other than reset (R80, R88). -/
def State.clearFlags (s : State) : State := { s with status := Status.clear }

end Sys2Proof.Machine
end

