-- ==== Sys2Proof/Machine/PixelAdapter.lean ====
section
/-! DEFINITION. The Pixel/Stripe Adapter's commands (R64 to R67). -/

namespace Sys2Proof.Machine

/-- SET_PIXEL x, y, v (R65), up to its read where the stripe store keeps it waiting (R108). -/
def execSetPixel (x : Column) (y : Row) (v : Bool) (s : State) : Host.Outcome State Fault Refusal :=
  .next (if s.storeStalls then s.takeWord.await (.pixelRead x y v) else (s.pixelWrite x y v).takeWord)

/-- GET_PIXEL x, y: one read, and the pixel's bit as the response (R66), up to its read where the stripe store keeps it
waiting (R108). -/
def execGetPixel (x : Column) (y : Row) (s : State) : Host.Outcome State Fault Refusal :=
  .next (if s.storeStalls then s.takeWord.await (.getPixel x y) else (s.answerPixel x y).takeWord)

end Sys2Proof.Machine
end

