-- ==== Sys2Proof/Machine/SpriteBlitter.lean ====
section
/-! DEFINITION. The Sprite Blitter: DRAW_SPRITE as the sequencer of R22 runs it. The latches `bi` and `bj` step through
the pixels, columns outer and rows inner, both ascending (R69, R70); a payload word is taken when column 4m is reached
and PSB holds there while none is presented (R77). A header with a reserved bit set runs the same sequence with every
pixel suppressed, so it consumes the same payload (R78). -/

namespace Sys2Proof.Machine

/-- A payload word is due: the next pixel is the first of a column 4m (R69, R77). -/
def State.payloadDue (s : State) : Bool := s.seq.bi.toNat % 4 == 0 && s.seq.bj == 0#3

/-- `pay <- next word of cmd_in`, `cp <- cp + 1` (R69). -/
def State.takePayload (s : State) (w : Word) : State :=
  { s.takeWord with seq := { s.seq with pay := w } }

/-- The value of the pixel under way: bit `bj` of column byte `bi`, which is byte `bi mod 4` of `pay` (R68, R69). -/
def Latches.pixelValue (q : Latches) : Bool := (payloadByte q.pay (q.bi.toNat % 4)).getLsbD q.bj.toNat

/-- The pixel (bi, bj) of the sprite: drawn when it is on the screen, else skipped with OOR (R69, R72). Nothing when
the header was illegal (R78). -/
def State.drawPixel (s : State) : State :=
  if s.seq.bill then s
  else
    let px := spriteX s.seq.bx0 s.seq.bi
    let py := spriteY s.seq.by0 s.seq.bj
    if onScreen px py then s.pixelWrite (px.setWidth 7) (py.setWidth 6) s.seq.pixelValue
    else s.raiseOor

/-- The stripe store keeps the pixel under way waiting: the pixel makes an access, which an illegal header or a pixel off
the screen does not (R72, R78, R108). -/
def State.pixelStalls (s : State) : Bool :=
  s.storeStalls && !s.seq.bill && onScreen (spriteX s.seq.bx0 s.seq.bi) (spriteY s.seq.by0 s.seq.bj)

/-- PSB has issued the read of the pixel under way (R71, R108). -/
def State.awaitPixel (s : State) : State :=
  s.await (.pixelRead ((spriteX s.seq.bx0 s.seq.bi).setWidth 7) ((spriteY s.seq.by0 s.seq.bj).setWidth 6)
    s.seq.pixelValue)

/-- On to the next pixel: the next row, or the top of the next column (R69, R70). -/
def State.nextPixel (s : State) : State :=
  { s with seq := { s.seq with
      bj := s.seq.bj + 1#3
      bi := if s.seq.bj = 7#3 then s.seq.bi + 1#8 else s.seq.bi } }

/-- The sequencer for the `n` pixels that remain. It ends in phase IDLE, or in phase BLIT before a column whose payload
word has not been presented, or with a pixel's read kept waiting by the stripe store (R11, R69, R77, R108). -/
def blitLoop : Nat → State → State
  | 0, s => { s with phase := .idle }
  | n + 1, s =>
    if s.payloadDue then
      match s.cmdIn with
      | [] => s
      | w :: _ =>
        if (s.takePayload w).pixelStalls then (s.takePayload w).awaitPixel
        else blitLoop n (s.takePayload w).drawPixel.nextPixel
    else if s.pixelStalls then s.awaitPixel
    else blitLoop n s.drawPixel.nextPixel

/-- The pixels of the sprite that remain, counting from (bi, bj): `8 * bw` in all (R69). -/
def Latches.pixelsLeft (q : Latches) : Nat :=
  Config.spriteH * q.bw.toNat - (Config.spriteH * q.bi.toNat + q.bj.toNat)

/-- PSB goes on with the DRAW_SPRITE its latches hold, until it ends, a payload word is missing (R77) or the stripe store
keeps it waiting (R108). -/
def State.blitRun (s : State) : State := blitLoop s.seq.pixelsLeft s

/-- A DRAW_SPRITE header is latched and the sequence starts at column 0, row 0 (R22, R69). -/
def State.blitStart (s : State) (x0 : Column) (y0 : Row) (w : BitVec 8) (bill : Bool) : State :=
  { s with
    phase := .blit
    seq := { s.seq with bx0 := x0, by0 := y0, bw := w, bill := bill, bi := 0#8, bj := 0#3 } }

/-- DRAW_SPRITE x0, y0 with `w` columns (R69 to R77). -/
def execDrawSprite (x0 : Column) (y0 : Row) (w : BitVec 8) (s : State) :
    Host.Outcome State Fault Refusal :=
  .next (s.takeWord.blitStart x0 y0 w false).blitRun

end Sys2Proof.Machine
end

