-- ==== Sys2Proof/Machine/StatusCommands.lean ====
section
/-! DEFINITION. The status commands (R79, R80). -/

namespace Sys2Proof.Machine

/-- READ_STATUS: the response is STATUS, and reading clears nothing (R79). -/
def execReadStatus (s : State) : Host.Outcome State Fault Refusal :=
  .next (s.respond s.status.word).takeWord

/-- CLEAR_STATUS: both flags <- 0 (R80). -/
def execClearStatus (s : State) : Host.Outcome State Fault Refusal :=
  .next s.clearFlags.takeWord

end Sys2Proof.Machine
end

