-- ==== Sys2Proof/Machine/StripeAccess.lean ====
section
/-! DEFINITION. The stripe commands: each passes one stripe primitive through to the stripe port (R61 to R63). -/

namespace Sys2Proof.Machine

/-- READ_STRIPE c, s (R62), up to its read where the stripe store keeps it waiting (R108). -/
def execReadStripe (c : Column) (st : StripeIx) (s : State) : Host.Outcome State Fault Refusal :=
  .next (if s.storeStalls then s.takeWord.await (.readStripe c st) else (s.answerStripe c st).takeWord)

/-- WRITE_STRIPE c, s, data: one write and no read (R63), up to its write where the stripe store keeps it waiting
(R108). -/
def execWriteStripe (c : Column) (st : StripeIx) (data : Byte) (s : State) :
    Host.Outcome State Fault Refusal :=
  .next (if s.storeStalls then s.takeWord.await (.writeStripe c st data) else (s.stripeWrite c st data).takeWord)

end Sys2Proof.Machine
end

