-- ==== Sys2Proof/Machine/Dispatch.lean ====
section
/-! DEFINITION. One arm per command, each a direct call of its meaning. -/

namespace Sys2Proof.Machine

/-- The meaning of a command that PSB has started (R50). -/
def exec (i : Instr) (s : State) : Host.Outcome State Fault Refusal :=
  match i with
  -- the Pixel/Stripe Adapter
  | .setPixel x y v => Sys2Proof.Machine.execSetPixel x y v s
  | .getPixel x y => Sys2Proof.Machine.execGetPixel x y s
  -- the stripe primitives
  | .readStripe c st => Sys2Proof.Machine.execReadStripe c st s
  | .writeStripe c st data => Sys2Proof.Machine.execWriteStripe c st data s
  -- the Sprite Blitter
  | .drawSprite x0 y0 w => Sys2Proof.Machine.execDrawSprite x0 y0 w s
  -- STATUS
  | .readStatus => Sys2Proof.Machine.execReadStatus s
  | .clearStatus => Sys2Proof.Machine.execClearStatus s

end Sys2Proof.Machine
end

