-- ==== Sys2Proof/Machine/StripeStore.lean ====
section
/-! DEFINITION. The stripe store's side of an access that it has kept waiting: what its completion does, and how PSB goes on
from there when the store answers at once again (R5, R13, R108; log entry 27). -/

namespace Sys2Proof.Machine

/-- The pixel's write has completed: nothing is outstanding, and a DRAW_SPRITE is at its next pixel (R65, R69). DESIGN
CHOICE, log entry 28: after the sprite's last pixel `phase` stays BLIT, with `bi = bw`, until PSB's next turn ends the
command, so another agent's write is refused until then, although R39's window has ended. -/
def State.pixelDone (s : State) : State :=
  match s.phase with
  | .idle => s.settle
  | .blit => s.settle.nextPixel

/-- The stripe store completes the access `a` that is outstanding. After the read half of a pixel PSB issues the write
half (R13, R62, R63, R65, R66). -/
def State.completeAccess (s : State) : PendingAccess → State
  | .readStripe c st => (s.answerStripe c st).settle
  | .writeStripe c st v => (s.stripeWrite c st v).settle
  | .getPixel x y => (s.answerPixel x y).settle
  | .pixelRead x y v => (s.pixelRead x y).await (.pixelWrite x y v)
  | .pixelWrite x y v => (s.pixelStore x y v).pixelDone

/-- The write half too, where the access completed was the read half of a pixel. -/
def State.completeSecond (s : State) : State :=
  match s.outstanding with
  | none => s
  | some a => s.completeAccess a

/-- PSB goes on with the command under way when the store answers at once: the access `a` that is outstanding completes,
with the write half of its pixel, and then the rest of a DRAW_SPRITE (R65, R69, R108). -/
def State.finishAccess (s : State) (a : PendingAccess) : State :=
  let t := (s.completeAccess a).completeSecond
  match t.phase with
  | .idle => t
  | .blit => t.blitRun

end Sys2Proof.Machine
end

