-- ==== Sys2Proof/Machine/Sequencer.lean ====
section
/-! DEFINITION. What PSB does when it is its turn: it takes a header at a command boundary and executes it, goes on with
a command under way, or holds (R11, R12, R13, R51, R81, R97, R108). -/

namespace Sys2Proof.Machine

/-- An illegal header (R53, R54, R82): ILL is set and the header consumed, with no access and no response. For OP = 5
the payload its W field names is then consumed and discarded too (R78). -/
def State.illegalHeader (s : State) (cw : Word) : Reject → State
  | .unassignedOpcode _ => s.raiseIll.takeWord
  | .reservedBits _ => s.raiseIll.takeWord
  | .illegalBlit w => (s.raiseIll.takeWord.blitStart (fieldX cw) (fieldY cw) w true).blitRun

/-- PSB is at a command boundary with the header `cw` next in `cmd_in` (R51). -/
def State.runHeader (s : State) (cw : Word) : Host.Outcome State Fault Refusal :=
  match decode cw with
  | .ok i => exec i s
  | .error why => .next (s.illegalHeader cw why)

/-- One turn of PSB. It does nothing while reset is asserted (R97) and while the stripe store keeps an access waiting (R13,
R108); it goes on with the command under way once the store answers, or with a DRAW_SPRITE in phase BLIT; and in phase
IDLE it takes the next header, holding while there is none (R11) and while RQ is full (R12). A hold changes no state. -/
def State.psbStep (s : State) : Host.Outcome State Fault Refusal :=
  if s.rst then .next s
  else
    match s.outstanding with
    | some a => .next (if s.storeStalls then s else s.finishAccess a)
    | none =>
      match s.phase with
      | .blit => .next s.blitRun
      | .idle =>
        if s.rqHasRoom then
          match s.cmdIn with
          | [] => .next s
          | cw :: _ => s.runHeader cw
        else .next s

end Sys2Proof.Machine
end

