-- ==== Sys2Proof/Machine/Agents.lean ====
section
/-! DEFINITION. The moves of the agents other than PSB (R5): the requester, the stripe store, another writer of the
framebuffer, and the reset input, with the abort of a command in the middle (R11, R12, R13, R39, R97 to R101, R108). -/

namespace Sys2Proof.Machine

/-- The state an outcome leaves: the next state, or the state as it was. -/
def stateAfter (s : State) : Host.Outcome State Fault Refusal → State
  | .next t => t
  | .fault _ => s
  | .refused _ => s

/-- What an abort leaves of a turn of PSB that has taken at most `words` words and made at most `events` stripe events:
the framebuffer and the trace hold that prefix of the command's events, the words taken are gone and the others
stand (R99). An access that is outstanding is the first of those events, so it may have completed or not. The flags are
those that the command with these words leaves, for `safeMove` (log entry 20); reset then clears them (R98). -/
def State.abortedTurn (s : State) (events words : Nat) : State :=
  let t := stateAfter s ({ s with storeStalls := false, cmdIn := s.cmdIn.take words }).psbStep
  let made := (t.trace.drop s.trace.length).take events
  { s with
    status := t.status
    fb := s.fb.replay made
    trace := s.trace ++ made
    cmdIn := s.cmdIn.drop ((s.cmdIn.take words).length - t.cmdIn.length) }

/-- Reset is asserted: every piece of PSB state takes its value of R23, the latches unspecified, queued responses are lost,
and an outstanding access is given up (R98). The framebuffer is not written (R100), and the stripe store is not reset. -/
def State.enterReset (s : State) : State :=
  { s with
    status := Status.clear
    phase := .idle
    seq := latchesAfterReset (s.resets + 1)
    outstanding := none
    rq := []
    cp := 0
    rst := true
    resets := s.resets + 1 }

/-- The requester takes the word at the head of RQ (R12, R19). -/
def State.deliver (s : State) (v : Word) (rest : List Word) : State :=
  { s with rq := rest, rspTaken := s.rspTaken ++ [v] }

/-- One move of the schedule. `s` is the state with the input still at the head of its schedule, `later` what stands
behind it. -/
def State.inputStep (s : State) (later : List Input) : Input → Host.Outcome State Fault Refusal
  | .psbTurn => ({ s with inputs := later }).psbStep
  | .presentWord w => .next { s with inputs := later, cmdIn := s.cmdIn ++ [w] }
  | .takeResponse =>
    match s.rq with
    | [] => s.psbStep
    | v :: rest => .next (({ s with inputs := later }).deliver v rest)
  | .otherWrite c st v =>
    if s.inCommand then .refused .secondWriterDuringCommand
    else .next (({ s with inputs := later }).setStripe c st v)
  | .assertReset events words => .next (({ s with inputs := later }).abortedTurn events words).enterReset
  | .releaseReset => .next { s with inputs := later, rst := false }
  | .storeStalls => .next { s with inputs := later, storeStalls := true }
  | .storeCompletes =>
    match s.outstanding with
    | none => .next { s with inputs := later }
    | some a => .next (({ s with inputs := later }).completeAccess a)
  | .storeAnswers => .next { s with inputs := later, storeStalls := false }

/-- One step of the whole machine: the next move of the schedule, or PSB's turn when the schedule is empty. -/
def State.agentStep (s : State) : Host.Outcome State Fault Refusal :=
  match s.inputs with
  | [] => s.psbStep
  | input :: later => s.inputStep later input

/-- The machine made ready to take `ws` as its next words: they are presented on `cmd_in` before anything else, it is
PSB's turn, at a command boundary, with reset released, room for a response and a stripe store that answers at once
(R11, R12, R97, R108; log entry 14). -/
def State.presentNext (s : State) (ws : List Word) : State :=
  { s with
    inputs := []
    rst := false
    storeStalls := false
    outstanding := none
    phase := .idle
    rq := if s.rqHasRoom then s.rq else []
    cmdIn := ws ++ s.cmdIn }

end Sys2Proof.Machine
end

