-- ==== Sys2Proof/Machine/Step.lean ====
section
/-! DEFINITION. One step of the machine, and the placing of an instruction where the next step fetches it. -/

namespace Sys2Proof.Machine

/-- One step: the next move of the schedule, or PSB's turn (R5, R11). -/
def step (s : State) : Host.Outcome State Fault Refusal := s.agentStep

/-- `s` with the instruction whose first `nbits` bits are `w` next in `cmd_in`, the machine ready to take it
(log entry 14). -/
def State.withFetchWord (s : State) (nbits w : Nat) : State := s.presentNext (tableWords nbits w)

end Sys2Proof.Machine
end

