-- ==== Sys2Proof/Safety.lean ====
section
/-! DEFINITION. What claims about the machine and about software for it are stated with: the invariant of the machine, and
the treatments that 93_implementation_defined.md recommends for claims (U2, U3, U4). The machine itself never stops for
any of them (R72, R81); a claim about software takes them as premises. -/

namespace Sys2Proof.Machine

/-- The completion of the access queues a response (R52). -/
def PendingAccess.responds : PendingAccess → Bool
  | .readStripe _ _ => true
  | .getPixel _ _ => true
  | .writeStripe _ _ _ => false
  | .pixelRead _ _ _ => false
  | .pixelWrite _ _ _ => false

/-- The stripe access that a one-word command begins with; DRAW_SPRITE's come from its pixels (R62, R63, R65, R66). -/
def firstAccess : Instr → Option PendingAccess
  | .setPixel x y v => some (.pixelRead x y v)
  | .getPixel x y => some (.getPixel x y)
  | .readStripe c st => some (.readStripe c st)
  | .writeStripe c st v => some (.writeStripe c st v)
  | .drawSprite _ _ _ => none
  | .readStatus => none
  | .clearStatus => none

/-- The invariant of the machine: it holds after reset and every step keeps it. -/
structure State.Inv (s : State) : Prop where
  /-- The framebuffer's list has its canonical form. -/
  memory : s.fb.wf
  /-- RQ holds at most `RSP_DEPTH` words (R12, R19). -/
  queue : s.rq.length ≤ Config.rspDepth
  /-- In phase BLIT the sequencer is within its sprite (R22), or just past its last pixel, where PSB's next turn ends the
  command (log entry 28). -/
  position : s.phase = .blit → 8 * s.seq.bi.toNat + s.seq.bj.toNat ≤ 8 * s.seq.bw.toNat
  /-- In phase BLIT an outstanding access is the read or the write of the pixel under way, which is one of the sprite's, on
  the screen, and drawn (R69, R71, R78). -/
  pixel : s.phase = .blit → ∀ a, s.outstanding = some a →
    s.seq.bill = false ∧ s.seq.bi.toNat < s.seq.bw.toNat
      ∧ s.seq.bx0.toNat + s.seq.bi.toNat < Config.cols ∧ s.seq.by0.toNat + s.seq.bj.toNat < Config.rows
      ∧ (a = .pixelRead (BitVec.ofNat 7 (s.seq.bx0.toNat + s.seq.bi.toNat))
            (BitVec.ofNat 6 (s.seq.by0.toNat + s.seq.bj.toNat)) s.seq.pixelValue
        ∨ a = .pixelWrite (BitVec.ofNat 7 (s.seq.bx0.toNat + s.seq.bi.toNat))
            (BitVec.ofNat 6 (s.seq.by0.toNat + s.seq.bj.toNat)) s.seq.pixelValue)
  /-- There is room for the response of a read that is outstanding (R12). -/
  room : ∀ a, s.outstanding = some a → a.responds = true → s.rq.length < Config.rspDepth
  /-- While the payload of an illegal header is discarded, ILL is set (R78). -/
  discarding : s.phase = .blit → s.seq.bill = true → s.status.ill = true
  /-- While reset is asserted PSB is at a command boundary with its reset values (R97, R98). -/
  inReset : s.rst = true →
    s.phase = .idle ∧ s.outstanding = none ∧ s.cp = 0 ∧ s.rq = [] ∧ s.status = Status.clear

/-- The stripe events a move from `s` to `t` has added to the trace (R32). -/
def newEvents (s t : State) : List StripeEvent := t.trace.drop s.trace.length

/-- Each read of a list of events returns the byte of the latest write before it, or what the framebuffer held at the
start (R38). -/
def Memory.readsLatest : Memory → List StripeEvent → Prop
  | _, [] => True
  | m, .rd c st v :: rest => v = m.stripe c st ∧ Memory.readsLatest m rest
  | m, .wr c st v :: rest => Memory.readsLatest (m.setStripe c st v) rest

/-- No read of a list of events finds a stripe that has not been written since power-up (U4). -/
def Memory.readsWritten : Memory → List StripeEvent → Bool
  | _, [] => true
  | m, .rd c st _ :: rest => m.written c st && Memory.readsWritten m rest
  | m, .wr c st v :: rest => Memory.readsWritten (m.setStripe c st v) rest

/-- No flag is set: for a claim about software, a run that sets OOR or ILL is treated as faulted (U2, U3). -/
def State.flagFree (s : State) : Bool := !s.status.ill && !s.status.oor

/-- No flag is set by the command that the next move, if it asserts reset, cuts off. Reset clears the flags (R98), so the
state after such a move no longer shows them (U2, U3; log entry 20). -/
def State.abortFlagFree (s : State) : Bool :=
  match s.inputs with
  | .assertReset events words :: later => (({ s with inputs := later }).abortedTurn events words).flagFree
  | _ => true

/-- A move that a claim about software may rest on: no flag set after it or in a command that it cuts off, and no read of
a stripe never written (U2, U3, U4). -/
def safeMove (s t : State) : Bool := t.flagFree && s.abortFlagFree && s.fb.readsWritten (newEvents s t)

end Sys2Proof.Machine
end

