-- ==== Sys2Proof/Certificates/Slice0/Obligations.lean ====
section
/-! DEFINITION. The statements for the provers, each from the rules its docstring cites. A statement whose conclusion is an
equation `{ t with … } = { s with … }` says the whole frame at once: every field of the state that is not named is
unchanged. Stripes and pixels are named by the numbers of the rules (`y / 8`, `8 * s + b`), not by the model's helpers. -/

namespace Sys2Proof.Claims

open Sys2Proof.Machine

/-! What the statements are written with. -/

/-- PSB is about to take the header `cw`, with the words `rest` presented behind it: nothing else is scheduled, reset is
released, PSB is at a command boundary with no access outstanding, and RQ has room (R11, R12, R13, R51). -/
def AtHeader (s : State) (cw : Word) (rest : List Word) : Prop :=
  s.inputs = [] ∧ s.rst = false ∧ s.phase = .idle ∧ s.outstanding = none ∧ s.rq.length < Config.rspDepth
    ∧ s.cmdIn = cw :: rest

/-- The stripe store answers at once (log entry 27); what PSB does while it keeps an access waiting is the subject of
StalledAccessIsOutstanding, StoreCompletesTheAccess and StallMakesNoDifference. -/
def StoreAnswers (s : State) : Prop := s.storeStalls = false

/-- The step on a header of one word does what an illegal command does, and nothing else: ILL is set, the word is
consumed (R53, R54, R82). -/
def OnlySetsIll (cw : Word) : Prop :=
  ∀ s rest, AtHeader s cw rest →
    step s = .next { s with status := ⟨true, s.status.oor⟩, cp := s.cp + 1, cmdIn := rest }

/-- The stripe of pixel row `y`, by division (R64). -/
def rowStripe (y : Row) : StripeIx := BitVec.ofNat 3 (y.toNat / 8)

/-- The row of bit `b` of stripe `st`, `8 * st + b` (R15, R28). -/
def stripeRow (st : StripeIx) (b : Nat) : Row := BitVec.ofNat 6 (8 * st.toNat + b)

/-- Pixel (x, y) is one of the sprite's: `x = x0 + i`, `y = y0 + j` with `i < W`, `j < 8` (R68, R74). -/
def InSprite (x0 : Column) (y0 : Row) (columns : Nat) (x : Column) (y : Row) : Prop :=
  x0.toNat ≤ x.toNat ∧ x.toNat < x0.toNat + columns ∧ y0.toNat ≤ y.toNat ∧ y.toNat < y0.toNat + 8

/-- Some pixel of the sprite falls outside the screen (R72). -/
def Overhangs (x0 : Column) (y0 : Row) (w : BitVec 8) : Prop :=
  0 < w.toNat ∧ (128 < x0.toNat + w.toNat ∨ 64 < y0.toNat + 8)

/-- PSB is the agent that moves: nothing is scheduled, its turn is scheduled, or the requester waits for a response
(R12, R106). -/
def PsbMoves (s : State) : Prop :=
  s.inputs = [] ∨ (∃ later, s.inputs = .psbTurn :: later) ∨ (s.rq = [] ∧ ∃ later, s.inputs = .takeResponse :: later)

/-- The next move asserts reset (R97). -/
def ResetMoves (s : State) : Prop := ∃ e k later, s.inputs = .assertReset e k :: later

/-- PSB takes the header `cw` in this move (R11, R12, R13, R51). -/
def Takes (s : State) (cw : Word) : Prop :=
  PsbMoves s ∧ s.rst = false ∧ s.phase = .idle ∧ s.outstanding = none ∧ s.rq.length < Config.rspDepth
    ∧ ∃ rest, s.cmdIn = cw :: rest

/-- The pseudocode of R69, pixel (i, j): draw it, or raise OOR. -/
def pseudoPixel (x0 : Column) (y0 : Row) (b : Byte) (i : Nat) (s : State) (j : Nat) : State :=
  if x0.toNat + i < 128 ∧ y0.toNat + j < 64 then
    s.pixelWrite (BitVec.ofNat 7 (x0.toNat + i)) (BitVec.ofNat 6 (y0.toNat + j)) (b.getLsbD j)
  else s.raiseOor

/-- The pseudocode of R69, column i: a payload word when `i mod 4 = 0`, then the 8 rows in ascending order. -/
def pseudoColumn (x0 : Column) (y0 : Row) (s : State) (i : Nat) : State :=
  let s1 := if i % 4 = 0 then s.takePayload (s.cmdIn.headD 0#32) else s
  (List.range 8).foldl (pseudoPixel x0 y0 (s1.seq.pay.extractLsb' (8 * (i % 4)) 8) i) s1

/-- The pseudocode of R69: the header, then the columns in ascending order. -/
def pseudoDrawSprite (x0 : Column) (y0 : Row) (w : BitVec 8) (s : State) : State :=
  (List.range w.toNat).foldl (pseudoColumn x0 y0) s.takeWord

/-- Whether an event is a read. -/
def isRead : StripeEvent → Bool
  | .rd _ _ _ => true
  | .wr _ _ _ => false

/-- The kind and the stripe of an event, without the byte. -/
def access : StripeEvent → Bool × Column × StripeIx
  | .rd c st _ => (true, c, st)
  | .wr c st _ => (false, c, st)

/-- `WI * HJ`, the in-range pixels of a sprite (R75). -/
def inRangePixels (x0 : Column) (y0 : Row) (w : BitVec 8) : Nat :=
  min w.toNat (128 - x0.toNat) * min 8 (64 - y0.toNat)

end Sys2Proof.Claims

open Sys2Proof Sys2Proof.Machine Sys2Proof.Claims

/-! ## Encoding -/

/-- Words written out from R50's patterns and the vectors of 95_test_vectors.md decode to the commands they stand for,
and the illegal ones are rejected by name. -/
def Obligations.SpecWordsDecode : Prop :=
  decode 0x10011305#32 = .ok (.setPixel 5#7 19#6 true)
    ∧ decode 0x20001305#32 = .ok (.getPixel 5#7 19#6)
    ∧ decode 0x3000077F#32 = .ok (.readStripe 127#7 7#3)
    ∧ decode 0x40A50703#32 = .ok (.writeStripe 3#7 7#3 0xA5#8)
    ∧ decode 0x50033C7E#32 = .ok (.drawSprite 126#7 60#6 3#8)
    ∧ decode 0x60000000#32 = .ok .readStatus
    ∧ decode 0x70000000#32 = .ok .clearStatus
    ∧ decode 0x20011305#32 = .error (.reservedBits 2#4)
    ∧ decode 0x50010080#32 = .error (.illegalBlit 1#8)
    ∧ decode 0x00000000#32 = .error (.unassignedOpcode 0#4)
    ∧ decode 0xF1234567#32 = .error (.unassignedOpcode 15#4)

/-- The encoding functions of R60 over the natural numbers, and decoding an encoded command returns the same command with
every operand at every value. The second is the spec's own inference there ("Decode of an encoded legal command returns
the same command and operands", from R46 to R51). -/
def Obligations.EncodeThenDecode : Prop :=
  (∀ i, decode (encode i) = .ok i)
    ∧ (∀ x y v, (encode (.setPixel x y v)).toNat
        = 0x10000000 ||| (v.toNat <<< 16) ||| (y.toNat <<< 8) ||| x.toNat)
    ∧ (∀ x y, (encode (.getPixel x y)).toNat = 0x20000000 ||| (y.toNat <<< 8) ||| x.toNat)
    ∧ (∀ c st, (encode (.readStripe c st)).toNat = 0x30000000 ||| (st.toNat <<< 8) ||| c.toNat)
    ∧ (∀ c st d, (encode (.writeStripe c st d)).toNat
        = 0x40000000 ||| (d.toNat <<< 16) ||| (st.toNat <<< 8) ||| c.toNat)
    ∧ (∀ x0 y0 w, (encode (.drawSprite x0 y0 w)).toNat
        = 0x50000000 ||| (w.toNat <<< 16) ||| (y0.toNat <<< 8) ||| x0.toNat)
    ∧ (∀ b0 b1 b2 b3, (packPayloadWord b0 b1 b2 b3).toNat
        = b0.toNat ||| (b1.toNat <<< 8) ||| (b2.toNat <<< 16) ||| (b3.toNat <<< 24))
    ∧ (encode .readStatus).toNat = 0x60000000
    ∧ (encode .clearStatus).toNat = 0x70000000

/-- The other direction (R50, R51): a legal header is the encoding of the command it decodes to, so no two words are one
command and no bit of a legal header is dropped. -/
def Obligations.LegalWordIsItsEncoding : Prop := ∀ cw i, decode cw = .ok i → encode i = cw

/-- The opcode map (R50): a header is a command of a row exactly when `CW & mask = match`. -/
def Obligations.MatchAndMaskDecide : Prop :=
  ∀ cw r, r ∈ opcodeTable → ((∃ i, decode cw = .ok i ∧ i.row = r) ↔ cw &&& r.mask = r.pattern)

/-- Which headers are illegal, and under which name (R51, R53, R54). -/
def Obligations.IllegalHeadersAreNamed : Prop :=
  ∀ cw : Word,
    (decode cw = .error (.unassignedOpcode (fieldOp cw)) ↔ cw.toNat / 2 ^ 28 = 0 ∨ 8 ≤ cw.toNat / 2 ^ 28)
      ∧ ((∃ op, decode cw = .error (.reservedBits op)) ↔
          ∃ r ∈ opcodeTable, r ≠ rowDrawSprite ∧ cw.toNat / 2 ^ 28 = r.pattern.toNat / 2 ^ 28
            ∧ cw &&& r.mask ≠ r.pattern)
      ∧ ((∃ w, decode cw = .error (.illegalBlit w)) ↔
          cw.toNat / 2 ^ 28 = 5 ∧ cw &&& 0xFF00C080#32 ≠ 0x50000000#32)

/-- A whole command, header and payload, is read back from the front of any stream it stands in (R48, R51, R105). -/
def Obligations.CommandStreamRoundTrip : Prop :=
  ∀ (c : Command) (rest : List Word), c.wf = true → decodeCommand (c.words ++ rest) = some (c, rest)

/-- Payload packing (R29, R48): `ceil(W/4)` words, and column byte `4m + k` in bits `8k+7:8k` of word `m`. -/
def Obligations.PayloadPacking : Prop :=
  ∀ bytes : List Byte,
    (packPayload bytes).length = (bytes.length + 3) / 4
      ∧ ∀ i, i < bytes.length →
          ((packPayload bytes).getD (i / 4) 0#32).toNat / 2 ^ (8 * (i % 4)) % 256 = (bytes.getD i 0#8).toNat
            ∧ spriteByte (packPayload bytes) i = bytes.getD i 0#8

/-- A byte-wide link carries each word least significant byte first, and the words are read back from the bytes (R29). -/
def Obligations.ByteLinkRoundTrip : Prop :=
  (∀ ws : List Word, wordsOfLink (ws.flatMap linkBytes) = ws)
    ∧ ∀ (w : Word) k, k < 4 → ((linkBytes w).getD k 0#8).toNat = w.toNat / 2 ^ (8 * k) % 256

/-- The assembler (R58), one clause for each kind of line: it refuses a line with an operand outside its field, and any
other line of a command gives that command's encoding (EncodeThenDecode reads it back); a sprite line gives its bytes as
the payload, padding 0. That it refuses a raw word of more than 32 bits and a sprite byte above 255 is the model's inference (log entry
26). -/
def Obligations.AssemblerEncodesItsLine : Prop :=
  (∀ x y v, assemble (.setPixel x y v) =
      if x ≤ 127 ∧ y ≤ 63 ∧ v ≤ 1 then
        some [encode (.setPixel (BitVec.ofNat 7 x) (BitVec.ofNat 6 y) (v == 1))] else none)
    ∧ (∀ x y, assemble (.getPixel x y) =
      if x ≤ 127 ∧ y ≤ 63 then some [encode (.getPixel (BitVec.ofNat 7 x) (BitVec.ofNat 6 y))] else none)
    ∧ (∀ c st, assemble (.readStripe c st) =
      if c ≤ 127 ∧ st ≤ 7 then some [encode (.readStripe (BitVec.ofNat 7 c) (BitVec.ofNat 3 st))] else none)
    ∧ (∀ c st d, assemble (.writeStripe c st d) =
      if c ≤ 127 ∧ st ≤ 7 ∧ d ≤ 255 then
        some [encode (.writeStripe (BitVec.ofNat 7 c) (BitVec.ofNat 3 st) (BitVec.ofNat 8 d))] else none)
    ∧ (∀ x0 y0 bytes,
      if x0 ≤ 127 ∧ y0 ≤ 63 ∧ bytes.length ≤ 255 ∧ ∀ b ∈ bytes, b ≤ 255 then
        ∃ payload, assemble (.drawSprite x0 y0 bytes) =
            some (encode (.drawSprite (BitVec.ofNat 7 x0) (BitVec.ofNat 6 y0) (BitVec.ofNat 8 bytes.length)) :: payload)
          ∧ payload.length = (bytes.length + 3) / 4 ∧ ∀ i, (spriteByte payload i).toNat = bytes.getD i 0
      else assemble (.drawSprite x0 y0 bytes) = none)
    ∧ assemble .readStatus = some [encode .readStatus]
    ∧ assemble .clearStatus = some [encode .clearStatus]
    ∧ ∀ w, assemble (.rawWord w) = if w < 2 ^ 32 then some [BitVec.ofNat 32 w] else none

/-- The pseudo-instructions, each with its exact expansion (R59). -/
def Obligations.PseudoInstructionExpansion : Prop :=
  (∀ x y, assemble (.pset x y) = assemble (.setPixel x y 1))
    ∧ (∀ x y, assemble (.pclr x y) = assemble (.setPixel x y 0))
    ∧ (∀ c, c < 128 → assemble (.clearColumn c) =
        some ((List.range 8).flatMap fun s => (assemble (.writeStripe c s 0)).getD []))
    ∧ assemble .cls =
        some ((List.range 128).flatMap fun c => (List.range 8).flatMap fun s =>
          (assemble (.writeStripe c s 0)).getD [])

/-! ## The two views and the arithmetic -/

/-- Pixel address arithmetic (R64): `y / 8`, `y mod 8`, a mask with exactly one bit set, and the column of the stripe is
the pixel's x unchanged. That no wrap-around can occur is the spec's own inference there ("No wrap-around can occur"):
both quotients are those of the natural numbers. -/
def Obligations.PixelAddressArithmetic : Prop :=
  ∀ y : Row, (pixelStripe y).toNat = y.toNat / 8 ∧ (pixelBit y).toNat = y.toNat % 8
    ∧ (bitMask (pixelBit y)).toNat = 2 ^ (y.toNat % 8)
    ∧ (∀ k, k < 8 → ((bitMask (pixelBit y)).getLsbD k = true ↔ k = y.toNat % 8))
    ∧ ∀ (s : State) x v, ∃ old new,
        (s.pixelWrite x y v).trace = s.trace ++ [.rd x (pixelStripe y) old, .wr x (pixelStripe y) new]

/-- The pixel view (R15, R28): `pixel(x, y) = FB[x][y / 8][y mod 8]`, and conversely bit `b` of stripe `(c, s)` is pixel
`(c, 8s + b)`. -/
def Obligations.PixelViewOfStripes : Prop :=
  ∀ s : State, (∀ x y, s.pixel x y = (s.stripe x (rowStripe y)).getLsbD (y.toNat % 8))
    ∧ ∀ c st b, b < 8 → (s.stripe c st).getLsbD b = s.pixel c (stripeRow st b)

/-- Side effects, whole (R35): a stripe read changes nothing but the trace and is idempotent, a stripe write changes only
the addressed byte. -/
def Obligations.StripeAccessSideEffects : Prop :=
  ∀ (s : State) (c : Column) (st : StripeIx),
    ({ (s.stripeRead c st).2 with trace := s.trace } = s
      ∧ ((s.stripeRead c st).2.stripeRead c st).1 = (s.stripeRead c st).1)
    ∧ ∀ v, { s.stripeWrite c st v with trace := s.trace, fb := s.fb } = s
        ∧ ∀ c' st', (s.stripeWrite c st v).stripe c' st' = if c' = c ∧ st' = st then v else s.stripe c' st'

/-! ## The commands -/

/-- READ_STRIPE, whole (R62): its encoding, its effect and its frame, and the illegal headers of its opcode. -/
def Obligations.ReadStripeReturnsTheByte : Prop :=
  (∀ c st, (encode (.readStripe c st)).toNat = 0x30000000 ||| (st.toNat <<< 8) ||| c.toNat)
    ∧ (∀ c st s, StoreAnswers s → exec (.readStripe c st) s =
        .next { s with
          rq := s.rq ++ [BitVec.ofNat 32 (s.stripe c st).toNat]
          trace := s.trace ++ [.rd c st (s.stripe c st)]
          cp := s.cp + 1
          cmdIn := s.cmdIn.tail })
    ∧ (∀ c st (s : State), s.fb.written c st = false → s.stripe c st = Config.fbInit c st)
    ∧ ∀ cw, cw.toNat / 2 ^ 28 = 3 → cw &&& 0xFFFFF880#32 ≠ 0x30000000#32 → OnlySetsIll cw

/-- WRITE_STRIPE, whole (R63): its encoding, its one write event and no read, every stripe after it, its frame, and the
illegal headers of its opcode. -/
def Obligations.WriteStripeReplacesTheByte : Prop :=
  (∀ c st d, (encode (.writeStripe c st d)).toNat
      = 0x40000000 ||| (d.toNat <<< 16) ||| (st.toNat <<< 8) ||| c.toNat)
    ∧ (∀ c st data s, StoreAnswers s → ∃ t, exec (.writeStripe c st data) s = .next t
        ∧ (∀ c' st', t.stripe c' st' = if c' = c ∧ st' = st then data else s.stripe c' st')
        ∧ (∀ b, b < 8 → t.pixel c (stripeRow st b) = data.getLsbD b)
        ∧ { t with fb := s.fb } =
            { s with trace := s.trace ++ [.wr c st data], cp := s.cp + 1, cmdIn := s.cmdIn.tail })
    ∧ ∀ cw, cw.toNat / 2 ^ 28 = 4 → cw &&& 0xFF00F880#32 ≠ 0x40000000#32 → OnlySetsIll cw

/-- SET_PIXEL, whole (R65): its encoding, exactly one read and one write of the pixel's stripe, the pixel's bit set or
cleared and no other bit of any stripe changed, its frame, and the illegal headers of its opcode. -/
def Obligations.SetPixelWritesOneBit : Prop :=
  (∀ x y v, (encode (.setPixel x y v)).toNat
      = 0x10000000 ||| (v.toNat <<< 16) ||| (y.toNat <<< 8) ||| x.toNat)
    ∧ (∀ x y v s, StoreAnswers s → ∃ t new, exec (.setPixel x y v) s = .next t
        ∧ (∀ k, k < 8 → new.getLsbD k =
            if k = y.toNat % 8 then v else (s.stripe x (rowStripe y)).getLsbD k)
        ∧ (∀ c' st', t.stripe c' st' = if c' = x ∧ st' = rowStripe y then new else s.stripe c' st')
        ∧ { t with fb := s.fb } =
            { s with
              trace := s.trace ++ [.rd x (rowStripe y) (s.stripe x (rowStripe y)), .wr x (rowStripe y) new]
              seq := { s.seq with rmw := s.stripe x (rowStripe y) }
              cp := s.cp + 1
              cmdIn := s.cmdIn.tail })
    ∧ (∀ x y (s : State), s.fb.written x (rowStripe y) = false →
        s.stripe x (rowStripe y) = Config.fbInit x (rowStripe y))
    ∧ ∀ cw, cw.toNat / 2 ^ 28 = 1 → cw &&& 0xFFFEC080#32 ≠ 0x10000000#32 → OnlySetsIll cw

/-- GET_PIXEL, whole (R66): its encoding, its one read, the response 0 or 1 (a bit of FB_INIT where nothing was written),
its frame, and the illegal headers of its
opcode. -/
def Obligations.GetPixelReturnsTheBit : Prop :=
  (∀ x y, (encode (.getPixel x y)).toNat = 0x20000000 ||| (y.toNat <<< 8) ||| x.toNat)
    ∧ (∀ x y s, StoreAnswers s → exec (.getPixel x y) s =
        .next { s with
          rq := s.rq ++ [if (s.stripe x (rowStripe y)).getLsbD (y.toNat % 8) then 1#32 else 0#32]
          trace := s.trace ++ [.rd x (rowStripe y) (s.stripe x (rowStripe y))]
          cp := s.cp + 1
          cmdIn := s.cmdIn.tail })
    ∧ (∀ x y (s : State), s.fb.written x (rowStripe y) = false →
        s.stripe x (rowStripe y) = Config.fbInit x (rowStripe y))
    ∧ ∀ cw, cw.toNat / 2 ^ 28 = 2 → cw &&& 0xFFFFC080#32 ≠ 0x20000000#32 → OnlySetsIll cw

/-- READ_STATUS, whole (R79): the word, the response, nothing cleared, its frame, and the illegal headers of its
opcode. -/
def Obligations.ReadStatusReturnsTheFlags : Prop :=
  (encode .readStatus).toNat = 0x60000000
    ∧ (∀ s : State, exec .readStatus s =
        .next { s with
          rq := s.rq ++ [BitVec.ofNat 32 (2 * s.status.oor.toNat + s.status.ill.toNat)]
          cp := s.cp + 1
          cmdIn := s.cmdIn.tail })
    ∧ (∃ t, exec .readStatus State.reset = .next t ∧ t.rq = [0#32])
    ∧ ∀ cw, cw.toNat / 2 ^ 28 = 6 → cw ≠ 0x60000000#32 → OnlySetsIll cw

/-- CLEAR_STATUS, whole (R80): the word, both flags 0, its frame, and the illegal headers of its opcode, which leave OOR
as it was. -/
def Obligations.ClearStatusClearsBothFlags : Prop :=
  (encode .clearStatus).toNat = 0x70000000
    ∧ (∀ s : State, exec .clearStatus s =
        .next { s with status := ⟨false, false⟩, cp := s.cp + 1, cmdIn := s.cmdIn.tail })
    ∧ ∀ cw, cw.toNat / 2 ^ 28 = 7 → cw ≠ 0x70000000#32 → OnlySetsIll cw

/-- DRAW_SPRITE completes when its payload has been presented (R68, R69, R72, R73, R74): every pixel of the sprite that is
on the screen takes its bit of the payload, 0 or 1, whatever was there, every other pixel and every stripe clear of the
sprite keeps its value, OOR is set exactly when a pixel is off the screen, and nothing else changes but the trace and
the sequencer's latches. -/
def Obligations.DrawSpriteDrawsItsPixels : Prop :=
  ∀ x0 y0 (w : BitVec 8) s, StoreAnswers s → (w.toNat + 3) / 4 ≤ s.cmdIn.tail.length →
    ∃ t, exec (.drawSprite x0 y0 w) s = .next t
      ∧ (∀ x y, InSprite x0 y0 w.toNat x y →
          t.pixel x y = (spriteByte s.cmdIn.tail (x.toNat - x0.toNat)).getLsbD (y.toNat - y0.toNat))
      ∧ (∀ x y, ¬InSprite x0 y0 w.toNat x y → t.pixel x y = s.pixel x y)
      ∧ (∀ c st, (∀ b, b < 8 → ¬InSprite x0 y0 w.toNat c (stripeRow st b)) → t.stripe c st = s.stripe c st)
      ∧ (t.status.oor = true ↔ s.status.oor = true ∨ Overhangs x0 y0 w)
      ∧ { t with fb := s.fb, trace := s.trace, seq := s.seq, status := s.status } =
          { s with
            phase := .idle
            cp := s.cp + (1 + (w.toNat + 3) / 4)
            cmdIn := s.cmdIn.tail.drop ((w.toNat + 3) / 4) }
      ∧ t.status.ill = s.status.ill

/-- The sequencer of R22 does what the pseudocode of R69 says, event by event: the same framebuffer, the same trace in
the same order, the same flags, `cp` and streams (R69, R71). The ascending order of both loops is the spec's reading of
its source, from general knowledge (R70, G1; log entry 19). -/
def Obligations.BlitterRefinesPseudocode : Prop :=
  ∀ x0 y0 (w : BitVec 8) s, StoreAnswers s → (w.toNat + 3) / 4 ≤ s.cmdIn.tail.length →
    ∃ t, exec (.drawSprite x0 y0 w) s = .next t ∧ t.phase = .idle
      ∧ { t with seq := s.seq, phase := s.phase } = { pseudoDrawSprite x0 y0 w s with seq := s.seq }

/-- The access count (from R69 and R72; R75 is the spec's own inference from them): `WI × HJ` reads, as many writes, OOR exactly when `WI × HJ < 8 × W`, and
`1 + ceil(W/4)` words. -/
def Obligations.DrawSpriteAccessCount : Prop :=
  ∀ x0 y0 (w : BitVec 8) s, StoreAnswers s → (w.toNat + 3) / 4 ≤ s.cmdIn.tail.length →
    ∃ t, exec (.drawSprite x0 y0 w) s = .next t
      ∧ ((newEvents s t).filter isRead).length = inRangePixels x0 y0 w
      ∧ ((newEvents s t).filter fun e => !isRead e).length = inRangePixels x0 y0 w
      ∧ (t.status.oor = true ↔ s.status.oor = true ∨ inRangePixels x0 y0 w < 8 * w.toNat)
      ∧ t.cp = s.cp + (1 + (w.toNat + 3) / 4)

/-- The empty sprite, whole (R76): it is legal, and it is the header alone, no access, OOR as it was, `cp` advanced by 1. -/
def Obligations.EmptySpriteIsTheHeaderAlone : Prop :=
  ∀ x0 y0, decode (encode (.drawSprite x0 y0 0#8)) = .ok (.drawSprite x0 y0 0#8)
    ∧ ∀ s : State, ∃ t, exec (.drawSprite x0 y0 0#8) s = .next t
      ∧ { t with seq := s.seq } = { s with phase := .idle, cp := s.cp + 1, cmdIn := s.cmdIn.tail }

/-- A DRAW_SPRITE whose payload is short holds in mid-command (R77, R105): all presented words are taken, the columns
before the missing word are drawn and no other pixel has changed, and PSB stays there while nothing comes. -/
def Obligations.DrawSpriteHoldsForPayload : Prop :=
  ∀ x0 y0 (w : BitVec 8) s, StoreAnswers s → s.cmdIn.tail.length < (w.toNat + 3) / 4 →
    ∃ t, exec (.drawSprite x0 y0 w) s = .next t
      ∧ t.phase = .blit ∧ t.cmdIn = [] ∧ t.cp = s.cp + (1 + s.cmdIn.tail.length)
      ∧ t.seq.bi.toNat = 4 * s.cmdIn.tail.length ∧ t.seq.bj = 0#3
      ∧ (∀ x y, InSprite x0 y0 (4 * s.cmdIn.tail.length) x y →
          t.pixel x y = (spriteByte s.cmdIn.tail (x.toNat - x0.toNat)).getLsbD (y.toNat - y0.toNat))
      ∧ (∀ x y, ¬InSprite x0 y0 (4 * s.cmdIn.tail.length) x y → t.pixel x y = s.pixel x y)
      ∧ (s.inputs = [] → s.rst = false → s.outstanding = none → step t = .next t)

/-- When the payload is presented in two parts (R11, R77), PSB goes on from its hold exactly as if it had all been there
at once: the whole state is the same. -/
def Obligations.LatePayloadMakesNoDifference : Prop :=
  ∀ x0 y0 w (s t : State) more, StoreAnswers s → s.inputs = [] → s.rst = false → s.outstanding = none → s.cmdIn ≠ [] →
    exec (.drawSprite x0 y0 w) s = .next t → t.phase = .blit →
    step { t with cmdIn := more } = exec (.drawSprite x0 y0 w) { s with cmdIn := s.cmdIn ++ more }

/-- An illegal DRAW_SPRITE header, whole (R78): ILL is set, its payload taken and discarded, OOR unchanged, no stripe
access, `cp` advanced by `1 + ceil(W/4)`. While the payload is short PSB has taken what there is and waits for the rest,
with the same flags and no access. -/
def Obligations.IllegalBlitDiscardsItsPayload : Prop :=
  ∀ (cw : Word) s rest n, AtHeader s cw rest → cw.toNat / 2 ^ 28 = 5 → cw &&& 0xFF00C080#32 ≠ 0x50000000#32 →
    n = (cw.toNat / 2 ^ 16 % 256 + 3) / 4 →
    ∃ t, step s = .next t
      ∧ if n ≤ rest.length then
          { t with seq := s.seq } =
            { s with status := ⟨true, s.status.oor⟩, cp := s.cp + (1 + n), cmdIn := rest.drop n }
        else
          { t with seq := s.seq } =
            { s with
              status := ⟨true, s.status.oor⟩
              cp := s.cp + (1 + rest.length)
              cmdIn := []
              phase := .blit }

/-- When the payload of an illegal DRAW_SPRITE comes late (R77, R78), PSB goes on from its hold exactly as if it had all
been there at once, and once it is there all of it has been discarded with no access, OOR unchanged and `cp` advanced by
`1 + ceil(W/4)` in all. -/
def Obligations.LateDiscardMakesNoDifference : Prop :=
  ∀ (cw : Word) (s t : State) rest more n, AtHeader s cw rest → cw.toNat / 2 ^ 28 = 5 →
    cw &&& 0xFF00C080#32 ≠ 0x50000000#32 → n = (cw.toNat / 2 ^ 16 % 256 + 3) / 4 → rest.length < n →
    step s = .next t →
    step { t with cmdIn := more } = step { s with cmdIn := s.cmdIn ++ more }
      ∧ (n ≤ rest.length + more.length → ∃ u, step { t with cmdIn := more } = .next u
          ∧ { u with seq := s.seq } =
            { s with
              status := ⟨true, s.status.oor⟩
              cp := s.cp + (1 + n)
              cmdIn := more.drop (n - rest.length) })

/-- Unassigned opcodes, whole (R54): illegal whatever the other bits hold, length 1, no access, no response, ILL set. -/
def Obligations.UnassignedOpcodeOnlySetsIll : Prop :=
  ∀ cw : Word, cw.toNat / 2 ^ 28 = 0 ∨ 8 ≤ cw.toNat / 2 ^ 28 → OnlySetsIll cw

/-- The pixel/stripe invariant (R67; for v = 0 and for GET_PIXEL the spec infers it from R62, R65 and R66): a READ_STRIPE right after a SET_PIXEL returns the stripe with the pixel's bit
equal to v and every other bit as before, and a GET_PIXEL returns v. -/
def Obligations.PixelStripeInvariant : Prop :=
  ∀ x y v (s : State), StoreAnswers s → ∃ t u g r,
    exec (.setPixel x y v) s = .next t
      ∧ exec (.readStripe x (rowStripe y)) t = .next u ∧ u.rq = s.rq ++ [r]
      ∧ (∀ k, k < 8 → r.getLsbD k = if k = y.toNat % 8 then v else (s.stripe x (rowStripe y)).getLsbD k)
      ∧ (∀ k, 8 ≤ k → r.getLsbD k = false)
      ∧ exec (.getPixel x y) t = .next g ∧ g.rq = s.rq ++ [BitVec.ofNat 32 v.toNat]

/-- Pixel/stripe coherence (R44): a WRITE_STRIPE is seen by a GET_PIXEL of a pixel of that stripe; the pixel a SET_PIXEL
has written is the bit that a READ_STRIPE of its stripe returns; and every bit of any stripe that a READ_STRIPE returns
after a DRAW_SPRITE is the payload's bit where the sprite lies and the bit that was there elsewhere. -/
def Obligations.ViewsAreCoherent : Prop :=
  (∀ c st data b (s : State), StoreAnswers s → b < 8 → ∃ t u,
      exec (.writeStripe c st data) s = .next t ∧ exec (.getPixel c (stripeRow st b)) t = .next u
        ∧ u.rq = s.rq ++ [if data.getLsbD b then 1#32 else 0#32])
    ∧ (∀ x y v (s : State), StoreAnswers s → ∃ t u r,
      exec (.setPixel x y v) s = .next t ∧ exec (.readStripe x (rowStripe y)) t = .next u
        ∧ u.rq = s.rq ++ [r] ∧ r.getLsbD (y.toNat % 8) = v)
    ∧ ∀ x0 y0 (w : BitVec 8) (s : State), StoreAnswers s → (w.toNat + 3) / 4 ≤ s.cmdIn.tail.length → ∃ t,
      exec (.drawSprite x0 y0 w) s = .next t
        ∧ ∀ c st, ∃ u r, exec (.readStripe c st) t = .next u ∧ u.rq = s.rq ++ [r]
          ∧ ∀ b, b < 8 →
            (InSprite x0 y0 w.toNat c (stripeRow st b) → r.getLsbD b =
              (spriteByte s.cmdIn.tail (c.toNat - x0.toNat)).getLsbD (8 * st.toNat + b - y0.toNat))
            ∧ (¬InSprite x0 y0 w.toNat c (stripeRow st b) → r.getLsbD b = s.pixel c (stripeRow st b))

/-! ## The machine -/

/-- A step runs the decoded instruction: when the word at the command pointer decodes to `i` and it is PSB's turn, step is
`exec i`, which takes the header itself; a scheduled turn of PSB is first taken off the schedule (R11, R51). -/
def Obligations.StepRunsTheDecodedCommand : Prop :=
  ∀ s cw rest i, AtHeader s cw rest → decode cw = .ok i →
    step s = exec i s ∧ ∀ later, step { s with inputs := .psbTurn :: later } = exec i { s with inputs := later }

/-- PSB never traps and never stops (R81): every command answers a next state in every state, and the only step that
stops is another agent's write in phase BLIT or with an access outstanding: the model refuses it by its own choice (U7;
log entry 10), which covers the window of the platform's premise (R39) and lasts to the end of phase BLIT (log entry
28). -/
def Obligations.NothingStopsTheMachine : Prop :=
  (∀ i s, ∃ t, exec i s = .next t)
    ∧ ∀ s, (∃ t, step s = .next t)
        ∨ (step s = .refused .secondWriterDuringCommand ∧ (s.phase = .blit ∨ s.outstanding ≠ none)
            ∧ ∃ c st v later, s.inputs = .otherWrite c st v :: later)

/-- The length rule at work (R51, R81): any header, legal or not, whose words have been presented leaves PSB at the next
command boundary with `cp` advanced by its length, which depends on OP and W only. -/
def Obligations.HeaderAdvancesByItsLength : Prop :=
  ∀ s (cw : Word) rest n, StoreAnswers s → AtHeader s cw rest →
    n = (if cw.toNat / 2 ^ 28 = 5 then 1 + (cw.toNat / 2 ^ 16 % 256 + 3) / 4 else 1) → n ≤ rest.length + 1 →
    ∃ t, step s = .next t ∧ t.phase = .idle ∧ t.cp = s.cp + n ∧ t.cmdIn = s.cmdIn.drop n

/-- `cp` counts the words taken (R11, R20): in one turn of PSB it never decreases, and the words gone from the front of
`cmd_in` are exactly as many as `cp` has advanced. -/
def Obligations.CommandPointerCountsWordsTaken : Prop :=
  ∀ s t : State, s.psbStep = .next t →
    s.cp ≤ t.cp ∧ t.cp - s.cp ≤ s.cmdIn.length ∧ t.cmdIn = s.cmdIn.drop (t.cp - s.cp)

/-- The STATUS update law over every move of every agent (R16, R17): ILL is set only by an illegal header, OOR only by a
legal DRAW_SPRITE with a pixel off the screen, and only CLEAR_STATUS or reset clears a flag. That no command sets both is
the spec's own inference there ("No single command sets both flags"). -/
def Obligations.StatusUpdateLaw : Prop :=
  ∀ s t, step s = .next t →
    (s.status.ill = true → t.status.ill = false → Takes s 0x70000000#32 ∨ ResetMoves s)
      ∧ (s.status.oor = true → t.status.oor = false → Takes s 0x70000000#32 ∨ ResetMoves s)
      ∧ (s.status.ill = false → t.status.ill = true →
          (∃ cw, Takes s cw ∧ ∀ i, decode cw ≠ .ok i) ∧ newEvents s t = [] ∧ t.status.oor = s.status.oor)
      ∧ (s.status.oor = false → t.status.oor = true →
          t.status.ill = s.status.ill
            ∧ ((∃ cw x0 y0 w, Takes s cw ∧ decode cw = .ok (.drawSprite x0 y0 w) ∧ Overhangs x0 y0 w)
              ∨ (PsbMoves s ∧ s.phase = .blit ∧ s.seq.bill = false
                ∧ Overhangs s.seq.bx0 s.seq.by0 s.seq.bw)))

/-- STATUS as READ_STATUS shows it (R16, R52): bit 0 ILL, bit 1 OOR, bits 31:2 hardwired 0. -/
def Obligations.StatusWordLayout : Prop :=
  ∀ f : Status, f.word.getLsbD 0 = f.ill ∧ f.word.getLsbD 1 = f.oor ∧ ∀ k, 2 ≤ k → f.word.getLsbD k = false

/-- One response per legal GET_PIXEL, READ_STRIPE and READ_STATUS, at the tail of the queue, and none for any other header
(R12, R19, R52, R53). -/
def Obligations.ResponsesAreQueuedInOrder : Prop :=
  ∀ s t cw rest, StoreAnswers s → AtHeader s cw rest → step s = .next t →
    ((∃ x y, decode cw = .ok (.getPixel x y)) ∨ (∃ c st, decode cw = .ok (.readStripe c st))
        ∨ decode cw = .ok .readStatus → ∃ v, t.rq = s.rq ++ [v])
      ∧ ((∀ x y, decode cw ≠ .ok (.getPixel x y)) → (∀ c st, decode cw ≠ .ok (.readStripe c st))
        → decode cw ≠ .ok .readStatus → t.rq = s.rq)

/-- The requester takes the word at the head of the queue, and waits while there is none: its move stays due and PSB goes
on (R12, R19, R106). That the move stays due is the model's choice (log entry 9). -/
def Obligations.RequesterTakesTheHead : Prop :=
  ∀ (s : State) later, s.inputs = .takeResponse :: later →
    (∀ v rest, s.rq = v :: rest →
        step s = .next { s with inputs := later, rq := rest, rspTaken := s.rspTaken ++ [v] })
      ∧ (s.rq = [] → step s = s.psbStep)

/-- PSB holds, changing nothing, while no word is presented, while the queue is full, while the stripe store keeps an
access waiting, and while reset is asserted (R11, R12, R13, R97, R108). A hold is a step to the same state by the model's
choice (log entry 25). -/
def Obligations.PsbHoldsWithoutChange : Prop :=
  ∀ s : State, (s.phase = .idle → s.outstanding = none → s.cmdIn = [] → s.psbStep = .next s)
    ∧ (s.phase = .idle → s.outstanding = none → Config.rspDepth ≤ s.rq.length → s.psbStep = .next s)
    ∧ (s.outstanding ≠ none → s.storeStalls = true → s.psbStep = .next s)
    ∧ (s.rst = true → s.psbStep = .next s)

/-- A command whose access the stripe store keeps waiting (R13, R108): the header is taken and its first access is
outstanding; no byte has moved, nothing is recorded and no response is queued (R40). When the store keeps accesses waiting
is the model's input (log entry 27). -/
def Obligations.StalledAccessIsOutstanding : Prop :=
  (∀ i a (s : State), s.storeStalls = true → firstAccess i = some a →
      exec i s = .next { s with outstanding := some a, cp := s.cp + 1, cmdIn := s.cmdIn.tail })
    ∧ ∀ x0 y0 (w : BitVec 8) (s : State), s.storeStalls = true → 0 < w.toNat → s.cmdIn.tail ≠ [] →
      ∃ t, exec (.drawSprite x0 y0 w) s = .next t
        ∧ { t with seq := s.seq } =
          { s with
            phase := .blit
            outstanding := some (.pixelRead x0 y0 ((spriteByte s.cmdIn.tail 0).getLsbD 0))
            cp := s.cp + 2
            cmdIn := s.cmdIn.tail.tail }

/-- The stripe store completes the access that is outstanding, and only that one (R13, R34, R61, R108): what each access
does when it completes, and that the write half of a pixel is issued when its read half has completed. That it does so in
a move of its own is the model's form (log entry 27), and so is that phase BLIT then lasts until PSB's next turn, the
sequencer one pixel further also after the last (log entry 28). -/
def Obligations.StoreCompletesTheAccess : Prop :=
  ∀ (s : State) later, s.inputs = .storeCompletes :: later →
    (s.outstanding = none → step s = .next { s with inputs := later })
      ∧ (∀ c st, s.outstanding = some (.readStripe c st) → step s =
          .next { s with
            inputs := later
            outstanding := none
            trace := s.trace ++ [.rd c st (s.stripe c st)]
            rq := s.rq ++ [BitVec.ofNat 32 (s.stripe c st).toNat] })
      ∧ (∀ x y, s.outstanding = some (.getPixel x y) → step s =
          .next { s with
            inputs := later
            outstanding := none
            trace := s.trace ++ [.rd x (rowStripe y) (s.stripe x (rowStripe y))]
            rq := s.rq ++ [if (s.stripe x (rowStripe y)).getLsbD (y.toNat % 8) then 1#32 else 0#32] })
      ∧ (∀ c st v, s.outstanding = some (.writeStripe c st v) → ∃ t, step s = .next t
          ∧ (∀ c' st', t.stripe c' st' = if c' = c ∧ st' = st then v else s.stripe c' st')
          ∧ { t with fb := s.fb } =
            { s with inputs := later, outstanding := none, trace := s.trace ++ [.wr c st v] })
      ∧ (∀ x y v, s.outstanding = some (.pixelRead x y v) → step s =
          .next { s with
            inputs := later
            outstanding := some (.pixelWrite x y v)
            trace := s.trace ++ [.rd x (rowStripe y) (s.stripe x (rowStripe y))]
            seq := { s.seq with rmw := s.stripe x (rowStripe y) } })
      ∧ ∀ x y v, s.outstanding = some (.pixelWrite x y v) → ∃ t new, step s = .next t
          ∧ (∀ k, k < 8 → new.getLsbD k = if k = y.toNat % 8 then v else s.seq.rmw.getLsbD k)
          ∧ (∀ c' st', t.stripe c' st' = if c' = x ∧ st' = rowStripe y then new else s.stripe c' st')
          ∧ { t with fb := s.fb, seq := s.seq } =
            { s with inputs := later, outstanding := none, trace := s.trace ++ [.wr x (rowStripe y) new] }
          ∧ (s.phase = .idle → t.seq = s.seq)
          ∧ (s.phase = .blit → t.seq =
              { s.seq with
                bj := s.seq.bj + 1#3
                bi := if s.seq.bj = 7#3 then s.seq.bi + 1#8 else s.seq.bi })

/-- A stripe store that keeps accesses waiting makes no difference to what a command does (R43, R107, R108). After a turn
of PSB that it has kept waiting, and after it has completed one access, the turn of PSB in which it answers at once leads
to the state that it would have led to without the wait; and where the command has ended it is that state. -/
def Obligations.StallMakesNoDifference : Prop :=
  (∀ s t : State, s.rst = false → s.storeStalls = true → s.psbStep = .next t →
      ({ s with storeStalls := false } : State).psbStep =
        if t.inCommand then ({ t with storeStalls := false } : State).psbStep else .next { t with storeStalls := false })
    ∧ ∀ (s t : State) later, s.rst = false → s.outstanding ≠ none → s.inputs = .storeCompletes :: later →
      step s = .next t →
      ({ s with storeStalls := false, inputs := later } : State).psbStep =
        if t.inCommand then ({ t with storeStalls := false } : State).psbStep else .next { t with storeStalls := false }

/-- The requester presents a word (R11, an in-order stream): it goes to the end of the words presented, whatever PSB is
doing, and nothing else changes but the schedule. -/
def Obligations.PresentedWordGoesToTheTail : Prop :=
  ∀ (s : State) w later, s.inputs = .presentWord w :: later →
    step s = .next { s with inputs := later, cmdIn := s.cmdIn ++ [w] }

/-- The stripe store begins and ends to keep accesses waiting: the level changes, and nothing else but the schedule (R108;
the moves are the model's own, log entry 27). -/
def Obligations.StoreLevelMoves : Prop :=
  ∀ (s : State) later,
    (s.inputs = .storeStalls :: later → step s = .next { s with inputs := later, storeStalls := true })
      ∧ (s.inputs = .storeAnswers :: later → step s = .next { s with inputs := later, storeStalls := false })

/-- The invariant of the machine holds right after reset. -/
def Obligations.InvariantAfterReset : Prop := State.reset.Inv

/-- Every step of every agent keeps the invariant: the framebuffer's list stays canonical (its form is log entry 8), RQ
stays within RSP_DEPTH and an outstanding read has room for its response (R12), the sequencer stays within its sprite and
an outstanding access in phase BLIT is that of the pixel under way (R22, R69, R71), ILL is set while an illegal payload is
discarded (R78), and reset values stand while reset is asserted (R97). -/
def Obligations.EveryStepKeepsTheInvariant : Prop :=
  ∀ s t : State, s.Inv → step s = .next t → t.Inv

/-- The trace explains the framebuffer (R32, R38, R103): every move but another agent's write appends events to the trace,
the framebuffer after it is the one before it with those writes made in order, and every read in it returned the latest
write before it. -/
def Obligations.TraceExplainsTheFramebuffer : Prop :=
  ∀ s t : State, (∀ c st v later, s.inputs ≠ .otherWrite c st v :: later) → step s = .next t →
    ∃ es, t.trace = s.trace ++ es ∧ t.fb = s.fb.replay es ∧ s.fb.readsLatest es

/-- The values of R23 after power-up, and what the spec says of the framebuffer then: no stripe holds a byte other than
FB_INIT's (R24). -/
def Obligations.StateAfterReset : Prop :=
  State.reset.status.word = 0#32 ∧ State.reset.phase = .idle ∧ State.reset.rq = [] ∧ State.reset.cp = 0
    ∧ ∀ c st, State.reset.stripe c st = Config.fbInit c st

/-- Asserting reset, which the model's input does with a choice of how far PSB got first (log entry 11) (R98, R100): every piece of PSB state takes its value of R23, queued responses are lost, and a reset
that lands before any further stripe event leaves the framebuffer and the trace as they were. -/
def Obligations.ResetEntersItsState : Prop :=
  ∀ (s : State) e k later, s.inputs = .assertReset e k :: later →
    ∃ t, step s = .next t ∧ t.status = ⟨false, false⟩ ∧ t.phase = .idle ∧ t.outstanding = none ∧ t.rq = [] ∧ t.cp = 0
      ∧ t.rst = true
      ∧ t.rspTaken = s.rspTaken ∧ t.inputs = later
      ∧ (e = 0 → t.fb = s.fb ∧ t.trace = s.trace) ∧ (k = 0 → t.cmdIn = s.cmdIn)

/-- Reset in the middle of a command leaves a prefix of the events that the command would have made with a stripe store
that answers, an outstanding access among them, whatever the input asks, and the words not yet taken still stand (R99, U5, U9). How an input asks for a prefix is the model's choice (log
entry 11). -/
def Obligations.AbortLeavesAPrefix : Prop :=
  ∀ (s : State) e k later u, s.inputs = .assertReset e k :: later →
    ({ s with storeStalls := false } : State).psbStep = .next u →
    ∃ t es n, step s = .next t ∧ es <+: newEvents s u ∧ es.length ≤ e
      ∧ t.trace = s.trace ++ es ∧ t.fb = s.fb.replay es
      ∧ n ≤ k ∧ n ≤ u.cp - s.cp ∧ t.cmdIn = s.cmdIn.drop n

/-- Every prefix is admitted (R99, U5): for each number of events up to all of them there is a reset that leaves exactly
that many. How an input asks for one is the model's choice (log entry 11). -/
def Obligations.EveryPrefixIsAdmitted : Prop :=
  ∀ (s : State) later u e, ({ s with storeStalls := false } : State).psbStep = .next u → e ≤ (newEvents s u).length →
    ∃ t, step { s with inputs := .assertReset e s.cmdIn.length :: later } = .next t
      ∧ newEvents s t = (newEvents s u).take e ∧ t.fb = s.fb.replay ((newEvents s u).take e)

/-- A run that sets a flag counts as faulted for a claim about software (U2, U3; R72), also where a reset cuts the command
off and clears the flag: the move is not safe if the command, with the words it took, would set one. What `safeMove` asks
for is the model's choice (log entry 20). -/
def Obligations.SafeMovesSetNoFlag : Prop :=
  ∀ s t : State, step s = .next t → safeMove s t = true →
    t.status = ⟨false, false⟩
      ∧ ∀ e k later u, s.inputs = .assertReset e k :: later →
        ({ s with storeStalls := false, cmdIn := s.cmdIn.take k } : State).psbStep = .next u →
        u.status = ⟨false, false⟩

/-- Entry after reset (R101): when reset is released PSB is at a command boundary with `cp = 0`, and the first word it takes
is decoded as a header. -/
def Obligations.FirstWordAfterResetIsAHeader : Prop :=
  ∀ (s : State) cw rest, s.Inv → s.rst = true → s.inputs = [.releaseReset] → s.cmdIn = cw :: rest →
    ∃ t, step s = .next t ∧ AtHeader t cw rest ∧ t.cp = 0 ∧ step t = t.runHeader cw

/-- Another agent may write a stripe while PSB is idle, and the write changes that stripe alone; in phase BLIT, to its
end, and with an access outstanding the model refuses it by name, its own choice (R39, U7; log entries 10, 28). -/
def Obligations.OtherWriterOnlyWhileIdle : Prop :=
  ∀ (s : State) c st v later, s.inputs = .otherWrite c st v :: later →
    (s.phase = .idle → s.outstanding = none → ∃ t, step s = .next t
        ∧ (∀ c' st', t.stripe c' st' = if c' = c ∧ st' = st then v else s.stripe c' st')
        ∧ { t with fb := s.fb } = { s with inputs := later })
      ∧ (s.phase = .blit ∨ s.outstanding ≠ none → step s = .refused .secondWriterDuringCommand)

/-- No command's effect on the framebuffer depends on the flags (R18): two states that differ only in STATUS go through one
turn of PSB with the same events and the same framebuffer, and differ after it at most in STATUS and, where the next word
is READ_STATUS, in the word queued last in RQ. -/
def Obligations.FlagsDoNotAffectDrawing : Prop :=
  ∀ (s : State) f t t', s.psbStep = .next t → ({ s with status := f } : State).psbStep = .next t' →
    { t' with status := t.status, rq := t.rq } = t ∧ t'.rq.length = t.rq.length ∧ t'.rq.dropLast = t.rq.dropLast
      ∧ ((∀ rest, s.cmdIn ≠ 0x60000000#32 :: rest) → t'.rq = t.rq)

/-- Commands never come from the framebuffer (R42): two states that differ only in FB take the same words, reach the same
phase and flags and make accesses to the same stripes in the same order. -/
def Obligations.FramebufferNeverChangesTheCommands : Prop :=
  ∀ (s : State) m t t', s.psbStep = .next t → ({ s with fb := m } : State).psbStep = .next t' →
    t'.cp = t.cp ∧ t'.cmdIn = t.cmdIn ∧ t'.phase = t.phase ∧ t'.status = t.status
      ∧ t'.outstanding = t.outstanding ∧ t'.rq.length = t.rq.length ∧ t'.inputs = t.inputs
      ∧ (newEvents s t').map access = (newEvents s t).map access
end

