-- ==== Sys2Proof/Laws/State.lean ====
section
/-! SUPPORT. One lemma per field per update of the state, true by unfolding, so that no later proof unfolds a record
update. -/

namespace Sys2Proof.Machine

variable (s : State)


/-! `State.record` -/

@[simp] theorem record_status (e : StripeEvent) : (s.record e).status = s.status := rfl
@[simp] theorem record_phase (e : StripeEvent) : (s.record e).phase = s.phase := rfl
@[simp] theorem record_seq (e : StripeEvent) : (s.record e).seq = s.seq := rfl
@[simp] theorem record_outstanding (e : StripeEvent) : (s.record e).outstanding = s.outstanding := rfl
@[simp] theorem record_rq (e : StripeEvent) : (s.record e).rq = s.rq := rfl
@[simp] theorem record_cp (e : StripeEvent) : (s.record e).cp = s.cp := rfl
@[simp] theorem record_fb (e : StripeEvent) : (s.record e).fb = s.fb := rfl
@[simp] theorem record_trace (e : StripeEvent) : (s.record e).trace = s.trace ++ [e] := rfl
@[simp] theorem record_cmdIn (e : StripeEvent) : (s.record e).cmdIn = s.cmdIn := rfl
@[simp] theorem record_rspTaken (e : StripeEvent) : (s.record e).rspTaken = s.rspTaken := rfl
@[simp] theorem record_rst (e : StripeEvent) : (s.record e).rst = s.rst := rfl
@[simp] theorem record_storeStalls (e : StripeEvent) : (s.record e).storeStalls = s.storeStalls := rfl
@[simp] theorem record_inputs (e : StripeEvent) : (s.record e).inputs = s.inputs := rfl
@[simp] theorem record_resets (e : StripeEvent) : (s.record e).resets = s.resets := rfl

/-! `State.setStripe` -/

@[simp] theorem setStripe_status (c : Column) (st : StripeIx) (v : Byte) : (s.setStripe c st v).status = s.status := rfl
@[simp] theorem setStripe_phase (c : Column) (st : StripeIx) (v : Byte) : (s.setStripe c st v).phase = s.phase := rfl
@[simp] theorem setStripe_seq (c : Column) (st : StripeIx) (v : Byte) : (s.setStripe c st v).seq = s.seq := rfl
@[simp] theorem setStripe_outstanding (c : Column) (st : StripeIx) (v : Byte) : (s.setStripe c st v).outstanding = s.outstanding := rfl
@[simp] theorem setStripe_rq (c : Column) (st : StripeIx) (v : Byte) : (s.setStripe c st v).rq = s.rq := rfl
@[simp] theorem setStripe_cp (c : Column) (st : StripeIx) (v : Byte) : (s.setStripe c st v).cp = s.cp := rfl
@[simp] theorem setStripe_fb (c : Column) (st : StripeIx) (v : Byte) : (s.setStripe c st v).fb = s.fb.setStripe c st v := rfl
@[simp] theorem setStripe_trace (c : Column) (st : StripeIx) (v : Byte) : (s.setStripe c st v).trace = s.trace := rfl
@[simp] theorem setStripe_cmdIn (c : Column) (st : StripeIx) (v : Byte) : (s.setStripe c st v).cmdIn = s.cmdIn := rfl
@[simp] theorem setStripe_rspTaken (c : Column) (st : StripeIx) (v : Byte) : (s.setStripe c st v).rspTaken = s.rspTaken := rfl
@[simp] theorem setStripe_rst (c : Column) (st : StripeIx) (v : Byte) : (s.setStripe c st v).rst = s.rst := rfl
@[simp] theorem setStripe_storeStalls (c : Column) (st : StripeIx) (v : Byte) : (s.setStripe c st v).storeStalls = s.storeStalls := rfl
@[simp] theorem setStripe_inputs (c : Column) (st : StripeIx) (v : Byte) : (s.setStripe c st v).inputs = s.inputs := rfl
@[simp] theorem setStripe_resets (c : Column) (st : StripeIx) (v : Byte) : (s.setStripe c st v).resets = s.resets := rfl

/-! `State.stripeWrite` -/

@[simp] theorem stripeWrite_status (c : Column) (st : StripeIx) (v : Byte) : (s.stripeWrite c st v).status = s.status := rfl
@[simp] theorem stripeWrite_phase (c : Column) (st : StripeIx) (v : Byte) : (s.stripeWrite c st v).phase = s.phase := rfl
@[simp] theorem stripeWrite_seq (c : Column) (st : StripeIx) (v : Byte) : (s.stripeWrite c st v).seq = s.seq := rfl
@[simp] theorem stripeWrite_outstanding (c : Column) (st : StripeIx) (v : Byte) : (s.stripeWrite c st v).outstanding = s.outstanding := rfl
@[simp] theorem stripeWrite_rq (c : Column) (st : StripeIx) (v : Byte) : (s.stripeWrite c st v).rq = s.rq := rfl
@[simp] theorem stripeWrite_cp (c : Column) (st : StripeIx) (v : Byte) : (s.stripeWrite c st v).cp = s.cp := rfl
@[simp] theorem stripeWrite_fb (c : Column) (st : StripeIx) (v : Byte) : (s.stripeWrite c st v).fb = s.fb.setStripe c st v := rfl
@[simp] theorem stripeWrite_trace (c : Column) (st : StripeIx) (v : Byte) : (s.stripeWrite c st v).trace = s.trace ++ [.wr c st v] := rfl
@[simp] theorem stripeWrite_cmdIn (c : Column) (st : StripeIx) (v : Byte) : (s.stripeWrite c st v).cmdIn = s.cmdIn := rfl
@[simp] theorem stripeWrite_rspTaken (c : Column) (st : StripeIx) (v : Byte) : (s.stripeWrite c st v).rspTaken = s.rspTaken := rfl
@[simp] theorem stripeWrite_rst (c : Column) (st : StripeIx) (v : Byte) : (s.stripeWrite c st v).rst = s.rst := rfl
@[simp] theorem stripeWrite_storeStalls (c : Column) (st : StripeIx) (v : Byte) : (s.stripeWrite c st v).storeStalls = s.storeStalls := rfl
@[simp] theorem stripeWrite_inputs (c : Column) (st : StripeIx) (v : Byte) : (s.stripeWrite c st v).inputs = s.inputs := rfl
@[simp] theorem stripeWrite_resets (c : Column) (st : StripeIx) (v : Byte) : (s.stripeWrite c st v).resets = s.resets := rfl

/-! `State.latchRmw` -/

@[simp] theorem latchRmw_status (v : Byte) : (s.latchRmw v).status = s.status := rfl
@[simp] theorem latchRmw_phase (v : Byte) : (s.latchRmw v).phase = s.phase := rfl
@[simp] theorem latchRmw_seq (v : Byte) : (s.latchRmw v).seq = { s.seq with rmw := v } := rfl
@[simp] theorem latchRmw_outstanding (v : Byte) : (s.latchRmw v).outstanding = s.outstanding := rfl
@[simp] theorem latchRmw_rq (v : Byte) : (s.latchRmw v).rq = s.rq := rfl
@[simp] theorem latchRmw_cp (v : Byte) : (s.latchRmw v).cp = s.cp := rfl
@[simp] theorem latchRmw_fb (v : Byte) : (s.latchRmw v).fb = s.fb := rfl
@[simp] theorem latchRmw_trace (v : Byte) : (s.latchRmw v).trace = s.trace := rfl
@[simp] theorem latchRmw_cmdIn (v : Byte) : (s.latchRmw v).cmdIn = s.cmdIn := rfl
@[simp] theorem latchRmw_rspTaken (v : Byte) : (s.latchRmw v).rspTaken = s.rspTaken := rfl
@[simp] theorem latchRmw_rst (v : Byte) : (s.latchRmw v).rst = s.rst := rfl
@[simp] theorem latchRmw_storeStalls (v : Byte) : (s.latchRmw v).storeStalls = s.storeStalls := rfl
@[simp] theorem latchRmw_inputs (v : Byte) : (s.latchRmw v).inputs = s.inputs := rfl
@[simp] theorem latchRmw_resets (v : Byte) : (s.latchRmw v).resets = s.resets := rfl

/-! `State.await` -/

@[simp] theorem await_status (a : PendingAccess) : (s.await a).status = s.status := rfl
@[simp] theorem await_phase (a : PendingAccess) : (s.await a).phase = s.phase := rfl
@[simp] theorem await_seq (a : PendingAccess) : (s.await a).seq = s.seq := rfl
@[simp] theorem await_outstanding (a : PendingAccess) : (s.await a).outstanding = some a := rfl
@[simp] theorem await_rq (a : PendingAccess) : (s.await a).rq = s.rq := rfl
@[simp] theorem await_cp (a : PendingAccess) : (s.await a).cp = s.cp := rfl
@[simp] theorem await_fb (a : PendingAccess) : (s.await a).fb = s.fb := rfl
@[simp] theorem await_trace (a : PendingAccess) : (s.await a).trace = s.trace := rfl
@[simp] theorem await_cmdIn (a : PendingAccess) : (s.await a).cmdIn = s.cmdIn := rfl
@[simp] theorem await_rspTaken (a : PendingAccess) : (s.await a).rspTaken = s.rspTaken := rfl
@[simp] theorem await_rst (a : PendingAccess) : (s.await a).rst = s.rst := rfl
@[simp] theorem await_storeStalls (a : PendingAccess) : (s.await a).storeStalls = s.storeStalls := rfl
@[simp] theorem await_inputs (a : PendingAccess) : (s.await a).inputs = s.inputs := rfl
@[simp] theorem await_resets (a : PendingAccess) : (s.await a).resets = s.resets := rfl

/-! `State.settle` -/

@[simp] theorem settle_status : (s.settle).status = s.status := rfl
@[simp] theorem settle_phase : (s.settle).phase = s.phase := rfl
@[simp] theorem settle_seq : (s.settle).seq = s.seq := rfl
@[simp] theorem settle_outstanding : (s.settle).outstanding = none := rfl
@[simp] theorem settle_rq : (s.settle).rq = s.rq := rfl
@[simp] theorem settle_cp : (s.settle).cp = s.cp := rfl
@[simp] theorem settle_fb : (s.settle).fb = s.fb := rfl
@[simp] theorem settle_trace : (s.settle).trace = s.trace := rfl
@[simp] theorem settle_cmdIn : (s.settle).cmdIn = s.cmdIn := rfl
@[simp] theorem settle_rspTaken : (s.settle).rspTaken = s.rspTaken := rfl
@[simp] theorem settle_rst : (s.settle).rst = s.rst := rfl
@[simp] theorem settle_storeStalls : (s.settle).storeStalls = s.storeStalls := rfl
@[simp] theorem settle_inputs : (s.settle).inputs = s.inputs := rfl
@[simp] theorem settle_resets : (s.settle).resets = s.resets := rfl

/-! `State.takeWord` -/

@[simp] theorem takeWord_status : (s.takeWord).status = s.status := rfl
@[simp] theorem takeWord_phase : (s.takeWord).phase = s.phase := rfl
@[simp] theorem takeWord_seq : (s.takeWord).seq = s.seq := rfl
@[simp] theorem takeWord_outstanding : (s.takeWord).outstanding = s.outstanding := rfl
@[simp] theorem takeWord_rq : (s.takeWord).rq = s.rq := rfl
@[simp] theorem takeWord_cp : (s.takeWord).cp = s.cp + 1 := rfl
@[simp] theorem takeWord_fb : (s.takeWord).fb = s.fb := rfl
@[simp] theorem takeWord_trace : (s.takeWord).trace = s.trace := rfl
@[simp] theorem takeWord_cmdIn : (s.takeWord).cmdIn = s.cmdIn.tail := rfl
@[simp] theorem takeWord_rspTaken : (s.takeWord).rspTaken = s.rspTaken := rfl
@[simp] theorem takeWord_rst : (s.takeWord).rst = s.rst := rfl
@[simp] theorem takeWord_storeStalls : (s.takeWord).storeStalls = s.storeStalls := rfl
@[simp] theorem takeWord_inputs : (s.takeWord).inputs = s.inputs := rfl
@[simp] theorem takeWord_resets : (s.takeWord).resets = s.resets := rfl

/-! `State.respond` -/

@[simp] theorem respond_status (v : Word) : (s.respond v).status = s.status := rfl
@[simp] theorem respond_phase (v : Word) : (s.respond v).phase = s.phase := rfl
@[simp] theorem respond_seq (v : Word) : (s.respond v).seq = s.seq := rfl
@[simp] theorem respond_outstanding (v : Word) : (s.respond v).outstanding = s.outstanding := rfl
@[simp] theorem respond_rq (v : Word) : (s.respond v).rq = s.rq ++ [v] := rfl
@[simp] theorem respond_cp (v : Word) : (s.respond v).cp = s.cp := rfl
@[simp] theorem respond_fb (v : Word) : (s.respond v).fb = s.fb := rfl
@[simp] theorem respond_trace (v : Word) : (s.respond v).trace = s.trace := rfl
@[simp] theorem respond_cmdIn (v : Word) : (s.respond v).cmdIn = s.cmdIn := rfl
@[simp] theorem respond_rspTaken (v : Word) : (s.respond v).rspTaken = s.rspTaken := rfl
@[simp] theorem respond_rst (v : Word) : (s.respond v).rst = s.rst := rfl
@[simp] theorem respond_storeStalls (v : Word) : (s.respond v).storeStalls = s.storeStalls := rfl
@[simp] theorem respond_inputs (v : Word) : (s.respond v).inputs = s.inputs := rfl
@[simp] theorem respond_resets (v : Word) : (s.respond v).resets = s.resets := rfl

/-! `State.raiseIll` -/

@[simp] theorem raiseIll_status : (s.raiseIll).status = ⟨true, s.status.oor⟩ := rfl
@[simp] theorem raiseIll_phase : (s.raiseIll).phase = s.phase := rfl
@[simp] theorem raiseIll_seq : (s.raiseIll).seq = s.seq := rfl
@[simp] theorem raiseIll_outstanding : (s.raiseIll).outstanding = s.outstanding := rfl
@[simp] theorem raiseIll_rq : (s.raiseIll).rq = s.rq := rfl
@[simp] theorem raiseIll_cp : (s.raiseIll).cp = s.cp := rfl
@[simp] theorem raiseIll_fb : (s.raiseIll).fb = s.fb := rfl
@[simp] theorem raiseIll_trace : (s.raiseIll).trace = s.trace := rfl
@[simp] theorem raiseIll_cmdIn : (s.raiseIll).cmdIn = s.cmdIn := rfl
@[simp] theorem raiseIll_rspTaken : (s.raiseIll).rspTaken = s.rspTaken := rfl
@[simp] theorem raiseIll_rst : (s.raiseIll).rst = s.rst := rfl
@[simp] theorem raiseIll_storeStalls : (s.raiseIll).storeStalls = s.storeStalls := rfl
@[simp] theorem raiseIll_inputs : (s.raiseIll).inputs = s.inputs := rfl
@[simp] theorem raiseIll_resets : (s.raiseIll).resets = s.resets := rfl

/-! `State.raiseOor` -/

@[simp] theorem raiseOor_status : (s.raiseOor).status = ⟨s.status.ill, true⟩ := rfl
@[simp] theorem raiseOor_phase : (s.raiseOor).phase = s.phase := rfl
@[simp] theorem raiseOor_seq : (s.raiseOor).seq = s.seq := rfl
@[simp] theorem raiseOor_outstanding : (s.raiseOor).outstanding = s.outstanding := rfl
@[simp] theorem raiseOor_rq : (s.raiseOor).rq = s.rq := rfl
@[simp] theorem raiseOor_cp : (s.raiseOor).cp = s.cp := rfl
@[simp] theorem raiseOor_fb : (s.raiseOor).fb = s.fb := rfl
@[simp] theorem raiseOor_trace : (s.raiseOor).trace = s.trace := rfl
@[simp] theorem raiseOor_cmdIn : (s.raiseOor).cmdIn = s.cmdIn := rfl
@[simp] theorem raiseOor_rspTaken : (s.raiseOor).rspTaken = s.rspTaken := rfl
@[simp] theorem raiseOor_rst : (s.raiseOor).rst = s.rst := rfl
@[simp] theorem raiseOor_storeStalls : (s.raiseOor).storeStalls = s.storeStalls := rfl
@[simp] theorem raiseOor_inputs : (s.raiseOor).inputs = s.inputs := rfl
@[simp] theorem raiseOor_resets : (s.raiseOor).resets = s.resets := rfl

/-! `State.clearFlags` -/

@[simp] theorem clearFlags_status : (s.clearFlags).status = ⟨false, false⟩ := rfl
@[simp] theorem clearFlags_phase : (s.clearFlags).phase = s.phase := rfl
@[simp] theorem clearFlags_seq : (s.clearFlags).seq = s.seq := rfl
@[simp] theorem clearFlags_outstanding : (s.clearFlags).outstanding = s.outstanding := rfl
@[simp] theorem clearFlags_rq : (s.clearFlags).rq = s.rq := rfl
@[simp] theorem clearFlags_cp : (s.clearFlags).cp = s.cp := rfl
@[simp] theorem clearFlags_fb : (s.clearFlags).fb = s.fb := rfl
@[simp] theorem clearFlags_trace : (s.clearFlags).trace = s.trace := rfl
@[simp] theorem clearFlags_cmdIn : (s.clearFlags).cmdIn = s.cmdIn := rfl
@[simp] theorem clearFlags_rspTaken : (s.clearFlags).rspTaken = s.rspTaken := rfl
@[simp] theorem clearFlags_rst : (s.clearFlags).rst = s.rst := rfl
@[simp] theorem clearFlags_storeStalls : (s.clearFlags).storeStalls = s.storeStalls := rfl
@[simp] theorem clearFlags_inputs : (s.clearFlags).inputs = s.inputs := rfl
@[simp] theorem clearFlags_resets : (s.clearFlags).resets = s.resets := rfl

/-! `State.takePayload` -/

@[simp] theorem takePayload_status (w : Word) : (s.takePayload w).status = s.status := rfl
@[simp] theorem takePayload_phase (w : Word) : (s.takePayload w).phase = s.phase := rfl
@[simp] theorem takePayload_seq (w : Word) : (s.takePayload w).seq = { s.seq with pay := w } := rfl
@[simp] theorem takePayload_outstanding (w : Word) : (s.takePayload w).outstanding = s.outstanding := rfl
@[simp] theorem takePayload_rq (w : Word) : (s.takePayload w).rq = s.rq := rfl
@[simp] theorem takePayload_cp (w : Word) : (s.takePayload w).cp = s.cp + 1 := rfl
@[simp] theorem takePayload_fb (w : Word) : (s.takePayload w).fb = s.fb := rfl
@[simp] theorem takePayload_trace (w : Word) : (s.takePayload w).trace = s.trace := rfl
@[simp] theorem takePayload_cmdIn (w : Word) : (s.takePayload w).cmdIn = s.cmdIn.tail := rfl
@[simp] theorem takePayload_rspTaken (w : Word) : (s.takePayload w).rspTaken = s.rspTaken := rfl
@[simp] theorem takePayload_rst (w : Word) : (s.takePayload w).rst = s.rst := rfl
@[simp] theorem takePayload_storeStalls (w : Word) : (s.takePayload w).storeStalls = s.storeStalls := rfl
@[simp] theorem takePayload_inputs (w : Word) : (s.takePayload w).inputs = s.inputs := rfl
@[simp] theorem takePayload_resets (w : Word) : (s.takePayload w).resets = s.resets := rfl

/-! `State.awaitPixel` -/

@[simp] theorem awaitPixel_status : (s.awaitPixel).status = s.status := rfl
@[simp] theorem awaitPixel_phase : (s.awaitPixel).phase = s.phase := rfl
@[simp] theorem awaitPixel_seq : (s.awaitPixel).seq = s.seq := rfl
@[simp] theorem awaitPixel_rq : (s.awaitPixel).rq = s.rq := rfl
@[simp] theorem awaitPixel_cp : (s.awaitPixel).cp = s.cp := rfl
@[simp] theorem awaitPixel_fb : (s.awaitPixel).fb = s.fb := rfl
@[simp] theorem awaitPixel_trace : (s.awaitPixel).trace = s.trace := rfl
@[simp] theorem awaitPixel_cmdIn : (s.awaitPixel).cmdIn = s.cmdIn := rfl
@[simp] theorem awaitPixel_rspTaken : (s.awaitPixel).rspTaken = s.rspTaken := rfl
@[simp] theorem awaitPixel_rst : (s.awaitPixel).rst = s.rst := rfl
@[simp] theorem awaitPixel_storeStalls : (s.awaitPixel).storeStalls = s.storeStalls := rfl
@[simp] theorem awaitPixel_inputs : (s.awaitPixel).inputs = s.inputs := rfl
@[simp] theorem awaitPixel_resets : (s.awaitPixel).resets = s.resets := rfl

/-! `State.nextPixel` -/

@[simp] theorem nextPixel_status : (s.nextPixel).status = s.status := rfl
@[simp] theorem nextPixel_phase : (s.nextPixel).phase = s.phase := rfl
@[simp] theorem nextPixel_outstanding : (s.nextPixel).outstanding = s.outstanding := rfl
@[simp] theorem nextPixel_rq : (s.nextPixel).rq = s.rq := rfl
@[simp] theorem nextPixel_cp : (s.nextPixel).cp = s.cp := rfl
@[simp] theorem nextPixel_fb : (s.nextPixel).fb = s.fb := rfl
@[simp] theorem nextPixel_trace : (s.nextPixel).trace = s.trace := rfl
@[simp] theorem nextPixel_cmdIn : (s.nextPixel).cmdIn = s.cmdIn := rfl
@[simp] theorem nextPixel_rspTaken : (s.nextPixel).rspTaken = s.rspTaken := rfl
@[simp] theorem nextPixel_rst : (s.nextPixel).rst = s.rst := rfl
@[simp] theorem nextPixel_storeStalls : (s.nextPixel).storeStalls = s.storeStalls := rfl
@[simp] theorem nextPixel_inputs : (s.nextPixel).inputs = s.inputs := rfl
@[simp] theorem nextPixel_resets : (s.nextPixel).resets = s.resets := rfl
@[simp] theorem nextPixel_bj : s.nextPixel.seq.bj = s.seq.bj + 1#3 := rfl
@[simp] theorem nextPixel_bi :
    s.nextPixel.seq.bi = if s.seq.bj = 7#3 then s.seq.bi + 1#8 else s.seq.bi := rfl
@[simp] theorem nextPixel_bx0 : s.nextPixel.seq.bx0 = s.seq.bx0 := rfl
@[simp] theorem nextPixel_by0 : s.nextPixel.seq.by0 = s.seq.by0 := rfl
@[simp] theorem nextPixel_bw : s.nextPixel.seq.bw = s.seq.bw := rfl
@[simp] theorem nextPixel_bill : s.nextPixel.seq.bill = s.seq.bill := rfl
@[simp] theorem nextPixel_pay : s.nextPixel.seq.pay = s.seq.pay := rfl
@[simp] theorem nextPixel_rmw : s.nextPixel.seq.rmw = s.seq.rmw := rfl

/-! `State.blitStart` -/

@[simp] theorem blitStart_status (x0 : Column) (y0 : Row) (w : BitVec 8) (b : Bool) : (s.blitStart x0 y0 w b).status = s.status := rfl
@[simp] theorem blitStart_phase (x0 : Column) (y0 : Row) (w : BitVec 8) (b : Bool) : (s.blitStart x0 y0 w b).phase = .blit := rfl
@[simp] theorem blitStart_seq (x0 : Column) (y0 : Row) (w : BitVec 8) (b : Bool) : (s.blitStart x0 y0 w b).seq = { s.seq with bx0 := x0, by0 := y0, bw := w, bill := b, bi := 0#8, bj := 0#3 } := rfl
@[simp] theorem blitStart_outstanding (x0 : Column) (y0 : Row) (w : BitVec 8) (b : Bool) : (s.blitStart x0 y0 w b).outstanding = s.outstanding := rfl
@[simp] theorem blitStart_rq (x0 : Column) (y0 : Row) (w : BitVec 8) (b : Bool) : (s.blitStart x0 y0 w b).rq = s.rq := rfl
@[simp] theorem blitStart_cp (x0 : Column) (y0 : Row) (w : BitVec 8) (b : Bool) : (s.blitStart x0 y0 w b).cp = s.cp := rfl
@[simp] theorem blitStart_fb (x0 : Column) (y0 : Row) (w : BitVec 8) (b : Bool) : (s.blitStart x0 y0 w b).fb = s.fb := rfl
@[simp] theorem blitStart_trace (x0 : Column) (y0 : Row) (w : BitVec 8) (b : Bool) : (s.blitStart x0 y0 w b).trace = s.trace := rfl
@[simp] theorem blitStart_cmdIn (x0 : Column) (y0 : Row) (w : BitVec 8) (b : Bool) : (s.blitStart x0 y0 w b).cmdIn = s.cmdIn := rfl
@[simp] theorem blitStart_rspTaken (x0 : Column) (y0 : Row) (w : BitVec 8) (b : Bool) : (s.blitStart x0 y0 w b).rspTaken = s.rspTaken := rfl
@[simp] theorem blitStart_rst (x0 : Column) (y0 : Row) (w : BitVec 8) (b : Bool) : (s.blitStart x0 y0 w b).rst = s.rst := rfl
@[simp] theorem blitStart_storeStalls (x0 : Column) (y0 : Row) (w : BitVec 8) (b : Bool) : (s.blitStart x0 y0 w b).storeStalls = s.storeStalls := rfl
@[simp] theorem blitStart_inputs (x0 : Column) (y0 : Row) (w : BitVec 8) (b : Bool) : (s.blitStart x0 y0 w b).inputs = s.inputs := rfl
@[simp] theorem blitStart_resets (x0 : Column) (y0 : Row) (w : BitVec 8) (b : Bool) : (s.blitStart x0 y0 w b).resets = s.resets := rfl

/-! `State.enterReset` -/

@[simp] theorem enterReset_status : (s.enterReset).status = ⟨false, false⟩ := rfl
@[simp] theorem enterReset_phase : (s.enterReset).phase = .idle := rfl
@[simp] theorem enterReset_seq : (s.enterReset).seq = latchesAfterReset (s.resets + 1) := rfl
@[simp] theorem enterReset_outstanding : (s.enterReset).outstanding = none := rfl
@[simp] theorem enterReset_rq : (s.enterReset).rq = [] := rfl
@[simp] theorem enterReset_cp : (s.enterReset).cp = 0 := rfl
@[simp] theorem enterReset_fb : (s.enterReset).fb = s.fb := rfl
@[simp] theorem enterReset_trace : (s.enterReset).trace = s.trace := rfl
@[simp] theorem enterReset_cmdIn : (s.enterReset).cmdIn = s.cmdIn := rfl
@[simp] theorem enterReset_rspTaken : (s.enterReset).rspTaken = s.rspTaken := rfl
@[simp] theorem enterReset_rst : (s.enterReset).rst = true := rfl
@[simp] theorem enterReset_storeStalls : (s.enterReset).storeStalls = s.storeStalls := rfl
@[simp] theorem enterReset_inputs : (s.enterReset).inputs = s.inputs := rfl
@[simp] theorem enterReset_resets : (s.enterReset).resets = s.resets + 1 := rfl

/-! `State.pixelRead` -/

@[simp] theorem pixelRead_status (x : Column) (y : Row) : (s.pixelRead x y).status = s.status := rfl
@[simp] theorem pixelRead_phase (x : Column) (y : Row) : (s.pixelRead x y).phase = s.phase := rfl
@[simp] theorem pixelRead_seq (x : Column) (y : Row) : (s.pixelRead x y).seq = { s.seq with rmw := s.stripe x (pixelStripe y) } := rfl
@[simp] theorem pixelRead_outstanding (x : Column) (y : Row) : (s.pixelRead x y).outstanding = s.outstanding := rfl
@[simp] theorem pixelRead_rq (x : Column) (y : Row) : (s.pixelRead x y).rq = s.rq := rfl
@[simp] theorem pixelRead_cp (x : Column) (y : Row) : (s.pixelRead x y).cp = s.cp := rfl
@[simp] theorem pixelRead_fb (x : Column) (y : Row) : (s.pixelRead x y).fb = s.fb := rfl
@[simp] theorem pixelRead_trace (x : Column) (y : Row) : (s.pixelRead x y).trace = s.trace ++ [.rd x (pixelStripe y) (s.stripe x (pixelStripe y))] := rfl
@[simp] theorem pixelRead_cmdIn (x : Column) (y : Row) : (s.pixelRead x y).cmdIn = s.cmdIn := rfl
@[simp] theorem pixelRead_rspTaken (x : Column) (y : Row) : (s.pixelRead x y).rspTaken = s.rspTaken := rfl
@[simp] theorem pixelRead_rst (x : Column) (y : Row) : (s.pixelRead x y).rst = s.rst := rfl
@[simp] theorem pixelRead_storeStalls (x : Column) (y : Row) : (s.pixelRead x y).storeStalls = s.storeStalls := rfl
@[simp] theorem pixelRead_inputs (x : Column) (y : Row) : (s.pixelRead x y).inputs = s.inputs := rfl
@[simp] theorem pixelRead_resets (x : Column) (y : Row) : (s.pixelRead x y).resets = s.resets := rfl

/-! `State.pixelStore` -/

@[simp] theorem pixelStore_status (x : Column) (y : Row) (v : Bool) : (s.pixelStore x y v).status = s.status := rfl
@[simp] theorem pixelStore_phase (x : Column) (y : Row) (v : Bool) : (s.pixelStore x y v).phase = s.phase := rfl
@[simp] theorem pixelStore_seq (x : Column) (y : Row) (v : Bool) : (s.pixelStore x y v).seq = s.seq := rfl
@[simp] theorem pixelStore_outstanding (x : Column) (y : Row) (v : Bool) : (s.pixelStore x y v).outstanding = s.outstanding := rfl
@[simp] theorem pixelStore_rq (x : Column) (y : Row) (v : Bool) : (s.pixelStore x y v).rq = s.rq := rfl
@[simp] theorem pixelStore_cp (x : Column) (y : Row) (v : Bool) : (s.pixelStore x y v).cp = s.cp := rfl
@[simp] theorem pixelStore_fb (x : Column) (y : Row) (v : Bool) : (s.pixelStore x y v).fb = s.fb.setStripe x (pixelStripe y) (withBit s.seq.rmw (pixelBit y) v) := rfl
@[simp] theorem pixelStore_trace (x : Column) (y : Row) (v : Bool) : (s.pixelStore x y v).trace = s.trace ++ [.wr x (pixelStripe y) (withBit s.seq.rmw (pixelBit y) v)] := rfl
@[simp] theorem pixelStore_cmdIn (x : Column) (y : Row) (v : Bool) : (s.pixelStore x y v).cmdIn = s.cmdIn := rfl
@[simp] theorem pixelStore_rspTaken (x : Column) (y : Row) (v : Bool) : (s.pixelStore x y v).rspTaken = s.rspTaken := rfl
@[simp] theorem pixelStore_rst (x : Column) (y : Row) (v : Bool) : (s.pixelStore x y v).rst = s.rst := rfl
@[simp] theorem pixelStore_storeStalls (x : Column) (y : Row) (v : Bool) : (s.pixelStore x y v).storeStalls = s.storeStalls := rfl
@[simp] theorem pixelStore_inputs (x : Column) (y : Row) (v : Bool) : (s.pixelStore x y v).inputs = s.inputs := rfl
@[simp] theorem pixelStore_resets (x : Column) (y : Row) (v : Bool) : (s.pixelStore x y v).resets = s.resets := rfl

/-! `State.answerStripe` -/

@[simp] theorem answerStripe_status (c : Column) (st : StripeIx) : (s.answerStripe c st).status = s.status := rfl
@[simp] theorem answerStripe_phase (c : Column) (st : StripeIx) : (s.answerStripe c st).phase = s.phase := rfl
@[simp] theorem answerStripe_seq (c : Column) (st : StripeIx) : (s.answerStripe c st).seq = s.seq := rfl
@[simp] theorem answerStripe_outstanding (c : Column) (st : StripeIx) : (s.answerStripe c st).outstanding = s.outstanding := rfl
@[simp] theorem answerStripe_rq (c : Column) (st : StripeIx) : (s.answerStripe c st).rq = s.rq ++ [byteResponse (s.stripe c st)] := rfl
@[simp] theorem answerStripe_cp (c : Column) (st : StripeIx) : (s.answerStripe c st).cp = s.cp := rfl
@[simp] theorem answerStripe_fb (c : Column) (st : StripeIx) : (s.answerStripe c st).fb = s.fb := rfl
@[simp] theorem answerStripe_trace (c : Column) (st : StripeIx) : (s.answerStripe c st).trace = s.trace ++ [.rd c st (s.stripe c st)] := rfl
@[simp] theorem answerStripe_cmdIn (c : Column) (st : StripeIx) : (s.answerStripe c st).cmdIn = s.cmdIn := rfl
@[simp] theorem answerStripe_rspTaken (c : Column) (st : StripeIx) : (s.answerStripe c st).rspTaken = s.rspTaken := rfl
@[simp] theorem answerStripe_rst (c : Column) (st : StripeIx) : (s.answerStripe c st).rst = s.rst := rfl
@[simp] theorem answerStripe_storeStalls (c : Column) (st : StripeIx) : (s.answerStripe c st).storeStalls = s.storeStalls := rfl
@[simp] theorem answerStripe_inputs (c : Column) (st : StripeIx) : (s.answerStripe c st).inputs = s.inputs := rfl
@[simp] theorem answerStripe_resets (c : Column) (st : StripeIx) : (s.answerStripe c st).resets = s.resets := rfl

/-! `State.answerPixel` -/

@[simp] theorem answerPixel_status (x : Column) (y : Row) : (s.answerPixel x y).status = s.status := rfl
@[simp] theorem answerPixel_phase (x : Column) (y : Row) : (s.answerPixel x y).phase = s.phase := rfl
@[simp] theorem answerPixel_seq (x : Column) (y : Row) : (s.answerPixel x y).seq = s.seq := rfl
@[simp] theorem answerPixel_outstanding (x : Column) (y : Row) : (s.answerPixel x y).outstanding = s.outstanding := rfl
@[simp] theorem answerPixel_rq (x : Column) (y : Row) : (s.answerPixel x y).rq = s.rq ++ [pixelResponse (s.pixel x y)] := rfl
@[simp] theorem answerPixel_cp (x : Column) (y : Row) : (s.answerPixel x y).cp = s.cp := rfl
@[simp] theorem answerPixel_fb (x : Column) (y : Row) : (s.answerPixel x y).fb = s.fb := rfl
@[simp] theorem answerPixel_trace (x : Column) (y : Row) : (s.answerPixel x y).trace = s.trace ++ [.rd x (pixelStripe y) (s.stripe x (pixelStripe y))] := rfl
@[simp] theorem answerPixel_cmdIn (x : Column) (y : Row) : (s.answerPixel x y).cmdIn = s.cmdIn := rfl
@[simp] theorem answerPixel_rspTaken (x : Column) (y : Row) : (s.answerPixel x y).rspTaken = s.rspTaken := rfl
@[simp] theorem answerPixel_rst (x : Column) (y : Row) : (s.answerPixel x y).rst = s.rst := rfl
@[simp] theorem answerPixel_storeStalls (x : Column) (y : Row) : (s.answerPixel x y).storeStalls = s.storeStalls := rfl
@[simp] theorem answerPixel_inputs (x : Column) (y : Row) : (s.answerPixel x y).inputs = s.inputs := rfl
@[simp] theorem answerPixel_resets (x : Column) (y : Row) : (s.answerPixel x y).resets = s.resets := rfl

/-! `State.deliver` -/

@[simp] theorem deliver_status (v : Word) (rest : List Word) : (s.deliver v rest).status = s.status := rfl
@[simp] theorem deliver_phase (v : Word) (rest : List Word) : (s.deliver v rest).phase = s.phase := rfl
@[simp] theorem deliver_seq (v : Word) (rest : List Word) : (s.deliver v rest).seq = s.seq := rfl
@[simp] theorem deliver_outstanding (v : Word) (rest : List Word) : (s.deliver v rest).outstanding = s.outstanding := rfl
@[simp] theorem deliver_rq (v : Word) (rest : List Word) : (s.deliver v rest).rq = rest := rfl
@[simp] theorem deliver_cp (v : Word) (rest : List Word) : (s.deliver v rest).cp = s.cp := rfl
@[simp] theorem deliver_fb (v : Word) (rest : List Word) : (s.deliver v rest).fb = s.fb := rfl
@[simp] theorem deliver_trace (v : Word) (rest : List Word) : (s.deliver v rest).trace = s.trace := rfl
@[simp] theorem deliver_cmdIn (v : Word) (rest : List Word) : (s.deliver v rest).cmdIn = s.cmdIn := rfl
@[simp] theorem deliver_rspTaken (v : Word) (rest : List Word) : (s.deliver v rest).rspTaken = s.rspTaken ++ [v] := rfl
@[simp] theorem deliver_rst (v : Word) (rest : List Word) : (s.deliver v rest).rst = s.rst := rfl
@[simp] theorem deliver_storeStalls (v : Word) (rest : List Word) : (s.deliver v rest).storeStalls = s.storeStalls := rfl
@[simp] theorem deliver_inputs (v : Word) (rest : List Word) : (s.deliver v rest).inputs = s.inputs := rfl
@[simp] theorem deliver_resets (v : Word) (rest : List Word) : (s.deliver v rest).resets = s.resets := rfl

/-! `State.stripeRead`: its byte, and the state it leaves is the one with the read recorded. -/

@[simp] theorem stripeRead_byte (c : Column) (st : StripeIx) : (s.stripeRead c st).1 = s.stripe c st := rfl
@[simp] theorem stripeRead_state (c : Column) (st : StripeIx) :
    (s.stripeRead c st).2 = s.record (.rd c st (s.stripe c st)) := rfl

/-! `State.pixelWrite` -/

@[simp] theorem pixelWrite_status (x : Column) (y : Row) (v : Bool) :
    (s.pixelWrite x y v).status = s.status := rfl
@[simp] theorem pixelWrite_phase (x : Column) (y : Row) (v : Bool) :
    (s.pixelWrite x y v).phase = s.phase := rfl
@[simp] theorem pixelWrite_seq (x : Column) (y : Row) (v : Bool) :
    (s.pixelWrite x y v).seq = { s.seq with rmw := s.stripe x (pixelStripe y) } := rfl
@[simp] theorem pixelWrite_outstanding (x : Column) (y : Row) (v : Bool) :
    (s.pixelWrite x y v).outstanding = s.outstanding := rfl
@[simp] theorem pixelWrite_rq (x : Column) (y : Row) (v : Bool) :
    (s.pixelWrite x y v).rq = s.rq := rfl
@[simp] theorem pixelWrite_cp (x : Column) (y : Row) (v : Bool) :
    (s.pixelWrite x y v).cp = s.cp := rfl
@[simp] theorem pixelWrite_fb (x : Column) (y : Row) (v : Bool) :
    (s.pixelWrite x y v).fb = s.fb.setStripe x (pixelStripe y) (withBit (s.stripe x (pixelStripe y)) (pixelBit y) v) := rfl
@[simp] theorem pixelWrite_trace (x : Column) (y : Row) (v : Bool) :
    (s.pixelWrite x y v).trace = s.trace ++ [.rd x (pixelStripe y) (s.stripe x (pixelStripe y)),
      .wr x (pixelStripe y) (withBit (s.stripe x (pixelStripe y)) (pixelBit y) v)] := by
  simp [State.pixelWrite]
@[simp] theorem pixelWrite_cmdIn (x : Column) (y : Row) (v : Bool) :
    (s.pixelWrite x y v).cmdIn = s.cmdIn := rfl
@[simp] theorem pixelWrite_rspTaken (x : Column) (y : Row) (v : Bool) :
    (s.pixelWrite x y v).rspTaken = s.rspTaken := rfl
@[simp] theorem pixelWrite_rst (x : Column) (y : Row) (v : Bool) :
    (s.pixelWrite x y v).rst = s.rst := rfl
@[simp] theorem pixelWrite_storeStalls (x : Column) (y : Row) (v : Bool) :
    (s.pixelWrite x y v).storeStalls = s.storeStalls := rfl
@[simp] theorem pixelWrite_inputs (x : Column) (y : Row) (v : Bool) :
    (s.pixelWrite x y v).inputs = s.inputs := rfl
@[simp] theorem pixelWrite_resets (x : Column) (y : Row) (v : Bool) :
    (s.pixelWrite x y v).resets = s.resets := rfl

end Sys2Proof.Machine
end

