-- ==== Sys2Proof/Laws/Memory.lean ====
section
/-! SUPPORT. The framebuffer's laws: a read after a write gives the byte written, a write leaves every other stripe alone,
and every operation on the list of written stripes keeps its canonical form. -/

namespace Sys2Proof.Machine

theorem stripeKey_inj {c c' : Column} {st st' : StripeIx} :
    stripeKey c st = stripeKey c' st' ↔ c = c' ∧ st = st' := by
  constructor
  · intro h
    have h1 := st.isLt
    have h2 := st'.isLt
    unfold stripeKey at h
    exact ⟨BitVec.eq_of_toNat_eq (by omega), BitVec.eq_of_toNat_eq (by omega)⟩
  · rintro ⟨rfl, rfl⟩
    rfl

theorem stripeKey_lt (c : Column) (st : StripeIx) :
    stripeKey c st < Config.cols * Config.stripes := by
  have h1 := c.isLt
  have h2 := st.isLt
  simp only [stripeKey, Config.cols, Config.stripes]
  omega

@[simp] theorem lookup_insert_same (m : Memory) (a : Nat) (v : Byte) :
    (m.insert a v).lookup a = some v := by
  induction m with
  | nil => simp [Memory.insert, Memory.lookup]
  | cons e rest ih =>
    obtain ⟨k, b⟩ := e
    simp only [Memory.insert]
    split
    · simp [Memory.lookup]
    · split
      · simp [Memory.lookup]
      · rename_i h _
        simp [Memory.lookup, h, ih]

theorem lookup_insert_other (m : Memory) {a a' : Nat} (v : Byte) (h : a' ≠ a) :
    (m.insert a v).lookup a' = m.lookup a' := by
  induction m with
  | nil => simp [Memory.insert, Memory.lookup, Ne.symm h]
  | cons e rest ih =>
    obtain ⟨k, b⟩ := e
    simp only [Memory.insert]
    split
    · rename_i hk
      subst hk
      simp [Memory.lookup, Ne.symm h]
    · split
      · simp [Memory.lookup, Ne.symm h]
      · simp [Memory.lookup, ih]

@[simp] theorem stripe_setStripe_same (m : Memory) (c : Column) (st : StripeIx) (v : Byte) :
    (m.setStripe c st v).stripe c st = v := by
  simp [Memory.setStripe, Memory.stripe]

theorem stripe_setStripe_other (m : Memory) {c c' : Column} {st st' : StripeIx} (v : Byte)
    (h : ¬(c' = c ∧ st' = st)) : (m.setStripe c st v).stripe c' st' = m.stripe c' st' := by
  have hk : stripeKey c' st' ≠ stripeKey c st := fun e => h (stripeKey_inj.mp e)
  simp [Memory.setStripe, Memory.stripe, lookup_insert_other m v hk]

/-- What every stripe holds after a write of one. -/
theorem stripe_setStripe (m : Memory) (c c' : Column) (st st' : StripeIx) (v : Byte) :
    (m.setStripe c st v).stripe c' st' = if c' = c ∧ st' = st then v else m.stripe c' st' := by
  split
  · rename_i h
    obtain ⟨rfl, rfl⟩ := h
    simp
  · rename_i h
    exact stripe_setStripe_other m v h

/-! The canonical form. -/

theorem mem_insert {m : Memory} {a : Nat} {v : Byte} {e : Host.Cell} (h : e ∈ m.insert a v) :
    e = (a, v) ∨ e ∈ m := by
  induction m with
  | nil => simpa [Memory.insert] using h
  | cons e' rest ih =>
    obtain ⟨k, b⟩ := e'
    simp only [Memory.insert] at h
    split at h
    · rcases List.mem_cons.mp h with h | h
      · exact .inl h
      · exact .inr (List.mem_cons_of_mem _ h)
    · split at h
      · rcases List.mem_cons.mp h with h | h
        · exact .inl h
        · exact .inr h
      · rcases List.mem_cons.mp h with h | h
        · exact .inr (h ▸ List.mem_cons_self)
        · exact (ih h).imp id (List.mem_cons_of_mem _)

theorem insert_sorted {m : Memory} (a : Nat) (v : Byte)
    (h : List.Pairwise (fun x y : Host.Cell => x.1 < y.1) m) :
    List.Pairwise (fun x y : Host.Cell => x.1 < y.1) (m.insert a v) := by
  induction m with
  | nil => simp [Memory.insert]
  | cons e rest ih =>
    obtain ⟨k, b⟩ := e
    obtain ⟨hk, hr⟩ := List.pairwise_cons.mp h
    simp only [Memory.insert]
    split
    · rename_i e
      subst e
      exact List.pairwise_cons.mpr ⟨hk, hr⟩
    · split
      · rename_i hlt
        refine List.pairwise_cons.mpr ⟨?_, h⟩
        intro x hx
        rcases List.mem_cons.mp hx with rfl | hx
        · exact hlt
        · exact Nat.lt_trans hlt (hk x hx)
      · rename_i hne hnlt
        refine List.pairwise_cons.mpr ⟨?_, ih hr⟩
        intro x hx
        rcases mem_insert hx with rfl | hx
        · simp only
          omega
        · exact hk x hx

/-- A write of a stripe keeps the canonical form. -/
theorem setStripe_wf {m : Memory} (h : m.wf) (c : Column) (st : StripeIx) (v : Byte) :
    (m.setStripe c st v).wf := by
  refine ⟨insert_sorted _ _ h.1, ?_⟩
  intro e he
  rcases mem_insert he with rfl | he
  · exact stripeKey_lt c st
  · exact h.2 e he

/-- Replaying events keeps the canonical form. -/
theorem replay_wf {m : Memory} (h : m.wf) (es : List StripeEvent) : (m.replay es).wf := by
  induction es generalizing m with
  | nil => exact h
  | cons e rest ih =>
    cases e with
    | rd c st v => exact ih h
    | wr c st v => exact ih (setStripe_wf h c st v)

theorem replay_append (m : Memory) (es es' : List StripeEvent) :
    m.replay (es ++ es') = (m.replay es).replay es' := by
  induction es generalizing m with
  | nil => rfl
  | cons e rest ih => cases e <;> exact ih _

/-- The framebuffer of the machine right after reset has the canonical form. -/
theorem reset_memory_wf : State.reset.fb.wf := ⟨List.Pairwise.nil, fun _ h => nomatch h⟩

/-- Two canonical lists with the same bytes written are the same list. -/
theorem memory_ext {m m' : Memory} (h : m.wf) (h' : m'.wf)
    (e : ∀ a, m.lookup a = m'.lookup a) : m = m' := by
  have below : ∀ {l : Memory} {a : Nat}, (∀ x ∈ l, a < x.1) → l.lookup a = none := by
    intro l a hl
    induction l with
    | nil => rfl
    | cons x r ih =>
      have hx := hl x List.mem_cons_self
      simp only [Memory.lookup]
      rw [if_neg (by omega)]
      exact ih fun y hy => hl y (List.mem_cons_of_mem _ hy)
  obtain ⟨h, -⟩ := h
  obtain ⟨h', -⟩ := h'
  induction m generalizing m' with
  | nil =>
    cases m' with
    | nil => rfl
    | cons x r => simpa [Memory.lookup] using e x.1
  | cons x r ih =>
    cases m' with
    | nil => simpa [Memory.lookup] using e x.1
    | cons y r' =>
      obtain ⟨k, b⟩ := x
      obtain ⟨k', b'⟩ := y
      obtain ⟨hx, hr⟩ := List.pairwise_cons.mp h
      obtain ⟨hy, hr'⟩ := List.pairwise_cons.mp h'
      have hk : k = k' := by
        rcases Nat.lt_trichotomy k k' with hlt | heq | hgt
        · have := e k
          rw [below (l := (k', b') :: r')
            (by rintro z hz; rcases List.mem_cons.mp hz with rfl | hz
                · exact hlt
                · exact Nat.lt_trans hlt (hy z hz))] at this
          simp [Memory.lookup] at this
        · exact heq
        · have := e k'
          rw [below (l := (k, b) :: r)
            (by rintro z hz; rcases List.mem_cons.mp hz with rfl | hz
                · exact hgt
                · exact Nat.lt_trans hgt (hx z hz))] at this
          simp [Memory.lookup] at this
      subst hk
      have hb := e k
      simp only [Memory.lookup, if_true, Option.some.injEq] at hb
      subst hb
      congr 1
      refine ih ?_ hr hr'
      intro a
      by_cases ha : k = a
      · subst ha
        rw [below hx, below hy]
      · have := e a
        simpa [Memory.lookup, ha] using this

end Sys2Proof.Machine
end

