-- ==== Sys2Proof/Laws/Pixel.lean ====
section
/-! SUPPORT. The laws of the operand arithmetic and of the pixel view: which stripe and bit a row names, what setting a bit
does to every bit, and what a pixel write does to every pixel. -/

namespace Sys2Proof.Machine

theorem pixelStripe_toNat (y : Row) : (pixelStripe y).toNat = y.toNat / 8 := by
  have h := y.isLt
  simp only [pixelStripe, BitVec.extractLsb'_toNat, Nat.shiftRight_eq_div_pow]
  omega

theorem pixelBit_toNat (y : Row) : (pixelBit y).toNat = y.toNat % 8 := by
  simp [pixelBit, BitVec.extractLsb'_toNat]

/-- A row is its stripe and its bit. -/
theorem row_eq_iff (y y' : Row) : y = y' ↔ pixelStripe y = pixelStripe y' ∧ pixelBit y = pixelBit y' := by
  constructor
  · rintro rfl
    exact ⟨rfl, rfl⟩
  · rintro ⟨h1, h2⟩
    have h1 := congrArg BitVec.toNat h1
    have h2 := congrArg BitVec.toNat h2
    rw [pixelStripe_toNat, pixelStripe_toNat] at h1
    rw [pixelBit_toNat, pixelBit_toNat] at h2
    exact BitVec.eq_of_toNat_eq (by omega)

theorem bitMask_getLsbD (b : BitVec 3) {k : Nat} (hk : k < 8) :
    (bitMask b).getLsbD k = decide (k = b.toNat) := by
  simp only [bitMask, BitVec.getLsbD_shiftLeft, hk, decide_true, Bool.true_and]
  rcases Nat.lt_trichotomy k b.toNat with h | h | h
  · simp [h, Nat.ne_of_lt h]
  · simp [h]
  · have h1 : ¬k < b.toNat := by omega
    have h2 : k - b.toNat ≠ 0 := by omega
    simp [h1, h2, Nat.ne_of_gt h]

/-- Setting or clearing a bit, bit by bit (R65). -/
theorem withBit_getLsbD (old : Byte) (b : BitVec 3) (v : Bool) {k : Nat} (hk : k < 8) :
    (withBit old b v).getLsbD k = if k = b.toNat then v else old.getLsbD k := by
  cases v <;>
    simp only [withBit, Bool.false_eq_true, if_true, if_false, BitVec.getLsbD_or, BitVec.getLsbD_and,
      BitVec.getLsbD_not, bitMask_getLsbD b hk, hk, decide_true, Bool.true_and] <;>
    by_cases h : k = b.toNat <;> simp only [h, decide_true, decide_false, if_true, if_false, Bool.not_true,
      Bool.not_false, Bool.and_false, Bool.and_true, Bool.or_true, Bool.or_false]

/-- The pixel view reads one bit of one stripe. -/
theorem pixel_eq (s : State) (x : Column) (y : Row) :
    s.pixel x y = (s.fb.stripe x (pixelStripe y)).getLsbD (pixelBit y).toNat := rfl

theorem stripe_eq (s : State) (c : Column) (st : StripeIx) : s.stripe c st = s.fb.stripe c st := rfl

/-- What a pixel write does to every pixel (R65, R67). -/
theorem pixel_pixelWrite (s : State) (x x' : Column) (y y' : Row) (v : Bool) :
    (s.pixelWrite x y v).pixel x' y' = if x' = x ∧ y' = y then v else s.pixel x' y' := by
  simp only [pixel_eq, pixelWrite_fb, stripe_setStripe, stripe_eq]
  by_cases hx : x' = x
  · by_cases hs : pixelStripe y' = pixelStripe y
    · simp only [hx, hs, and_self, if_true, withBit_getLsbD _ _ _ (pixelBit y').isLt, row_eq_iff y' y,
        true_and, BitVec.toNat_inj]
    · simp [hx, hs, row_eq_iff y' y]
  · simp [hx]

/-- What a pixel write does to every stripe but its own: nothing. -/
theorem stripe_pixelWrite_other (s : State) {x c : Column} {y : Row} {st : StripeIx} (v : Bool)
    (h : ¬(c = x ∧ st = pixelStripe y)) : (s.pixelWrite x y v).stripe c st = s.stripe c st := by
  simp only [stripe_eq, pixelWrite_fb]
  exact stripe_setStripe_other _ _ h

/-- A stripe is its eight pixels. -/
theorem stripe_ext {s t : State} {c : Column} {st : StripeIx}
    (h : ∀ y, pixelStripe y = st → t.pixel c y = s.pixel c y) : t.stripe c st = s.stripe c st := by
  refine BitVec.eq_of_getLsbD_eq fun k hk => ?_
  have h1 := st.isLt
  have key : pixelStripe (BitVec.ofNat 6 (8 * st.toNat + k)) = st := by
    apply BitVec.eq_of_toNat_eq
    rw [pixelStripe_toNat, BitVec.toNat_ofNat]
    omega
  have bit : (pixelBit (BitVec.ofNat 6 (8 * st.toNat + k))).toNat = k := by
    rw [pixelBit_toNat, BitVec.toNat_ofNat]
    omega
  have := h _ key
  simpa only [pixel_eq, stripe_eq, key, bit] using this

theorem spriteX_toNat (x0 : Column) (i : BitVec 8) : (spriteX x0 i).toNat = x0.toNat + i.toNat := by
  have h1 := x0.isLt
  have h2 := i.isLt
  simp only [spriteX, BitVec.toNat_add, BitVec.toNat_setWidth]
  omega

theorem spriteY_toNat (y0 : Row) (j : BitVec 3) : (spriteY y0 j).toNat = y0.toNat + j.toNat := by
  have h1 := y0.isLt
  have h2 := j.isLt
  simp only [spriteY, BitVec.toNat_add, BitVec.toNat_setWidth]
  omega

/-- The screen test on the wide sums is the test on the numbers (R69, R72). -/
theorem onScreen_iff (x0 : Column) (y0 : Row) (i : BitVec 8) (j : BitVec 3) :
    onScreen (spriteX x0 i) (spriteY y0 j) = true ↔
      x0.toNat + i.toNat < 128 ∧ y0.toNat + j.toNat < 64 := by
  simp [onScreen, spriteX_toNat, spriteY_toNat, Config.cols, Config.rows]

/-- RQ has room exactly when it holds fewer than `RSP_DEPTH` words (R12). -/
theorem queueHasRoom_iff (q : List Word) (n : Nat) : queueHasRoom q n = true ↔ q.length ≤ n := by
  induction q generalizing n with
  | nil => simp [queueHasRoom]
  | cons v rest ih =>
    cases n with
    | zero => simp [queueHasRoom]
    | succ n => simp [queueHasRoom, ih]

theorem rqHasRoom_iff (s : State) : s.rqHasRoom = true ↔ s.rq.length < Config.rspDepth := by
  rw [State.rqHasRoom, queueHasRoom_iff, Config.rspDepth]
  omega

end Sys2Proof.Machine
end

