-- ==== Sys2Proof/Laws/Blitter.lean ====
section
/-! SUPPORT. What one pixel of the blitter does, and one induction over the whole sequence: a property that every move of
the sequencer keeps holds after any run of it. -/

namespace Sys2Proof.Machine

/-- What drawing a pixel does to every pixel: nothing under an illegal header or off the screen, else the one pixel takes
its value (R69, R72, R78). -/
theorem drawPixel_cases (s : State) :
    (s.seq.bill = true ∧ s.drawPixel = s)
      ∨ (s.seq.bill = false ∧ s.seq.bx0.toNat + s.seq.bi.toNat < 128 ∧ s.seq.by0.toNat + s.seq.bj.toNat < 64
          ∧ s.drawPixel = s.pixelWrite (BitVec.ofNat 7 (s.seq.bx0.toNat + s.seq.bi.toNat))
              (BitVec.ofNat 6 (s.seq.by0.toNat + s.seq.bj.toNat)) s.seq.pixelValue)
      ∨ (s.seq.bill = false ∧ ¬(s.seq.bx0.toNat + s.seq.bi.toNat < 128 ∧ s.seq.by0.toNat + s.seq.bj.toNat < 64)
          ∧ s.drawPixel = s.raiseOor) := by
  cases hb : s.seq.bill with
  | true => exact .inl ⟨rfl, by simp [State.drawPixel, hb]⟩
  | false =>
    by_cases hs : onScreen (spriteX s.seq.bx0 s.seq.bi) (spriteY s.seq.by0 s.seq.bj) = true
    · have hn := (onScreen_iff _ _ _ _).mp hs
      refine .inr (.inl ⟨rfl, hn.1, hn.2, ?_⟩)
      have hx : (spriteX s.seq.bx0 s.seq.bi).setWidth 7
          = BitVec.ofNat 7 (s.seq.bx0.toNat + s.seq.bi.toNat) := by
        apply BitVec.eq_of_toNat_eq
        rw [BitVec.toNat_setWidth, spriteX_toNat, BitVec.toNat_ofNat]
      have hy : (spriteY s.seq.by0 s.seq.bj).setWidth 6
          = BitVec.ofNat 6 (s.seq.by0.toNat + s.seq.bj.toNat) := by
        apply BitVec.eq_of_toNat_eq
        rw [BitVec.toNat_setWidth, spriteY_toNat, BitVec.toNat_ofNat]
      simp only [State.drawPixel, hb, hs, if_true, if_false, Bool.false_eq_true, hx, hy]
    · have hn : ¬(s.seq.bx0.toNat + s.seq.bi.toNat < 128 ∧ s.seq.by0.toNat + s.seq.bj.toNat < 64) :=
        fun h => hs ((onScreen_iff _ _ _ _).mpr h)
      exact .inr (.inr ⟨rfl, hn, by simp [State.drawPixel, hb, hs]⟩)

/-- A property that drawing a pixel in either way keeps, drawing keeps. -/
theorem drawPixel_keeps {P : State → Prop} {s : State} (h : P s)
    (write : ∀ x y v, P (s.pixelWrite x y v)) (oor : s.seq.bill = false → P s.raiseOor) : P s.drawPixel := by
  rcases drawPixel_cases s with ⟨-, e⟩ | ⟨-, -, -, e⟩ | ⟨hb, -, e⟩
  · rw [e]
    exact h
  · rw [e]
    exact write _ _ _
  · rw [e]
    exact oor hb

/-- Drawing a pixel leaves every field alone but the framebuffer, the trace, OOR and the latch `rmw`. -/
theorem drawPixel_frame (s : State) :
    { s.drawPixel with fb := s.fb, trace := s.trace, status := s.status, seq := s.seq } = s
      ∧ s.drawPixel.status.ill = s.status.ill
      ∧ { s.drawPixel.seq with rmw := s.seq.rmw } = s.seq := by
  refine drawPixel_keeps (P := fun t => { t with fb := s.fb, trace := s.trace, status := s.status, seq := s.seq } = s
    ∧ t.status.ill = s.status.ill ∧ { t.seq with rmw := s.seq.rmw } = s.seq) ?_ ?_ ?_
  · exact ⟨rfl, rfl, rfl⟩
  · intro x y v
    exact ⟨rfl, rfl, rfl⟩
  · intro _
    exact ⟨rfl, rfl, rfl⟩

/-- One induction for the whole sequence. `P` may count the pixels that remain; the sequencer takes a payload word, draws a
pixel and goes to the next, or ends, holds for a payload word, or waits for the stripe store. -/
theorem blitLoop_induct {P : Nat → State → Prop} {Q : State → Prop}
    (done : ∀ s, P 0 s → Q { s with phase := .idle })
    (hold : ∀ n s, P (n + 1) s → s.payloadDue = true → s.cmdIn = [] → Q s)
    (load : ∀ n s w rest, P (n + 1) s → s.payloadDue = true → s.cmdIn = w :: rest →
      (s.takePayload w).pixelStalls = false → P n (s.takePayload w).drawPixel.nextPixel)
    (draw : ∀ n s, P (n + 1) s → s.payloadDue = false → s.pixelStalls = false → P n s.drawPixel.nextPixel)
    (loadWait : ∀ n s w rest, P (n + 1) s → s.payloadDue = true → s.cmdIn = w :: rest →
      (s.takePayload w).pixelStalls = true → Q (s.takePayload w).awaitPixel)
    (wait : ∀ n s, P (n + 1) s → s.payloadDue = false → s.pixelStalls = true → Q s.awaitPixel)
    (n : Nat) (s : State) (h : P n s) : Q (blitLoop n s) := by
  induction n generalizing s with
  | zero => exact done s h
  | succ n ih =>
    simp only [blitLoop]
    cases hd : s.payloadDue with
    | true =>
      simp only [if_true]
      split
      · rename_i hc
        exact hold n s h hd hc
      · rename_i w rest hc
        cases hw : (s.takePayload w).pixelStalls with
        | true => exact loadWait n s w rest h hd hc hw
        | false => exact ih _ (load n s w rest h hd hc hw)
    | false =>
      simp only [Bool.false_eq_true, if_false]
      cases hw : s.pixelStalls with
      | true => exact wait n s h hd hw
      | false => exact ih _ (draw n s h hd hw)

/-- A property of the state that each move of the sequencer keeps holds after any run of it. -/
theorem blitLoop_keeps {P : State → Prop}
    (done : ∀ s, P s → P { s with phase := .idle })
    (load : ∀ s w rest, P s → s.cmdIn = w :: rest → P (s.takePayload w))
    (draw : ∀ s, P s → P s.drawPixel)
    (next : ∀ s, P s → P s.nextPixel)
    (wait : ∀ s, P s → s.pixelStalls = true → P s.awaitPixel)
    (n : Nat) (s : State) (h : P s) : P (blitLoop n s) :=
  blitLoop_induct (P := fun _ => P) done (fun _ _ h _ _ => h)
    (fun _ _ _ _ h _ hc _ => next _ (draw _ (load _ _ _ h hc))) (fun _ _ h _ _ => next _ (draw _ h))
    (fun _ _ _ _ h _ hc hw => wait _ (load _ _ _ h hc) hw) (fun _ _ h _ hw => wait _ h hw) n s h

/-- Any run of the sequencer leaves alone every field that is not its own. -/
theorem blitLoop_frame (n : Nat) (s : State) :
    (blitLoop n s).rq = s.rq ∧ (blitLoop n s).rspTaken = s.rspTaken ∧ (blitLoop n s).rst = s.rst
      ∧ (blitLoop n s).storeStalls = s.storeStalls
      ∧ (blitLoop n s).inputs = s.inputs ∧ (blitLoop n s).resets = s.resets
      ∧ (blitLoop n s).status.ill = s.status.ill := by
  refine blitLoop_keeps (P := fun t => t.rq = s.rq ∧ t.rspTaken = s.rspTaken ∧ t.rst = s.rst
    ∧ t.storeStalls = s.storeStalls ∧ t.inputs = s.inputs ∧ t.resets = s.resets ∧ t.status.ill = s.status.ill)
    ?_ ?_ ?_ ?_ ?_ n s ⟨rfl, rfl, rfl, rfl, rfl, rfl, rfl⟩
  · intro t h
    exact h
  · intro t w rest h _
    exact h
  · intro t h
    exact drawPixel_keeps (P := fun t => t.rq = s.rq ∧ t.rspTaken = s.rspTaken ∧ t.rst = s.rst
      ∧ t.storeStalls = s.storeStalls ∧ t.inputs = s.inputs ∧ t.resets = s.resets ∧ t.status.ill = s.status.ill)
      h (fun _ _ _ => h) (fun _ => h)
  · intro t h
    exact h
  · intro t h _
    exact h

/-- Drawing a pixel leaves every latch alone but `rmw`. -/
theorem drawPixel_latches (s : State) :
    s.drawPixel.seq.bi = s.seq.bi ∧ s.drawPixel.seq.bj = s.seq.bj ∧ s.drawPixel.seq.bw = s.seq.bw
      ∧ s.drawPixel.seq.bill = s.seq.bill := by
  have h := (drawPixel_frame s).2.2
  have hi := congrArg Latches.bi h
  have hj := congrArg Latches.bj h
  have hw := congrArg Latches.bw h
  have hb := congrArg Latches.bill h
  exact ⟨hi, hj, hw, hb⟩

/-- The pixels of the sprite before the one under way, `8 * bi + bj`. -/
def Latches.position (q : Latches) : Nat := 8 * q.bi.toNat + q.bj.toNat

/-- The sequencer's step to the next pixel advances the position by one, short of the last column that `bi` can hold. -/
theorem position_nextPixel (s : State) (h : s.seq.bi.toNat < 255) :
    s.nextPixel.seq.position = s.seq.position + 1 := by
  have hj := s.seq.bj.isLt
  simp only [Latches.position, nextPixel_bi, nextPixel_bj]
  by_cases e : s.seq.bj = 7#3
  · rw [if_pos e, e, BitVec.toNat_add]
    simp
    omega
  · have hne : s.seq.bj.toNat ≠ 7 := fun h => e (BitVec.eq_of_toNat_eq h)
    rw [if_neg e, BitVec.toNat_add]
    simp
    omega

/-- A payload word is due at every 32nd position (R69, R77). -/
theorem payloadDue_iff (s : State) : s.payloadDue = true ↔ s.seq.position % 32 = 0 := by
  have hj := s.seq.bj.isLt
  have e : s.seq.bj = 0#3 ↔ s.seq.bj.toNat = 0 := by
    rw [← BitVec.toNat_inj]
    rfl
  simp only [State.payloadDue, Bool.and_eq_true, beq_iff_eq, Latches.position, e]
  omega

/-- Only a stalling stripe store keeps a pixel waiting, and only one that is drawn (R78, R108). -/
theorem pixelStalls_iff (s : State) : s.pixelStalls = true ↔ s.storeStalls = true ∧ s.seq.bill = false
    ∧ s.seq.bx0.toNat + s.seq.bi.toNat < 128 ∧ s.seq.by0.toNat + s.seq.bj.toNat < 64 := by
  simp [State.pixelStalls, onScreen_iff, and_assoc]

/-- The access that a waiting pixel has issued (R69, R71). -/
theorem awaitPixel_outstanding (s : State) : s.awaitPixel.outstanding =
    some (.pixelRead (BitVec.ofNat 7 (s.seq.bx0.toNat + s.seq.bi.toNat))
      (BitVec.ofNat 6 (s.seq.by0.toNat + s.seq.bj.toNat)) s.seq.pixelValue) := by
  rw [State.awaitPixel, await_outstanding, ← spriteX_toNat, ← spriteY_toNat, BitVec.ofNat_toNat, BitVec.ofNat_toNat]

/-- Where the stripe store answers at once no run of the sequencer leaves an access outstanding that was not (R108). -/
theorem blitLoop_outstanding (n : Nat) (s : State) (h : s.storeStalls = false) :
    (blitLoop n s).outstanding = s.outstanding := by
  have keeps := blitLoop_keeps (P := fun t => t.storeStalls = false ∧ t.outstanding = s.outstanding)
    (fun _ h => h) (fun _ _ _ h _ => h)
    (fun t h => drawPixel_keeps (P := fun t => t.storeStalls = false ∧ t.outstanding = s.outstanding) h
      (fun _ _ _ => h) (fun _ => h))
    (fun _ h => h)
    (fun t h hw => by simp [pixelStalls_iff, h.1] at hw) n s ⟨h, rfl⟩
  exact keeps.2

/-- Under an illegal header any run of the sequencer makes no access and sets no flag (R78). -/
theorem blitLoop_discards (n : Nat) (s : State) (h : s.seq.bill = true) :
    (blitLoop n s).fb = s.fb ∧ (blitLoop n s).trace = s.trace ∧ (blitLoop n s).status = s.status := by
  have keeps := blitLoop_keeps
    (P := fun t => t.seq.bill = true ∧ t.fb = s.fb ∧ t.trace = s.trace ∧ t.status = s.status)
    (fun _ h => h) (fun _ _ _ h _ => h)
    (fun t h => by
      have e : t.drawPixel = t := by simp [State.drawPixel, h.1]
      rw [e]
      exact h)
    (fun _ h => h) (fun _ h _ => h) n s ⟨h, rfl, rfl, rfl⟩
  exact keeps.2

end Sys2Proof.Machine
end

