-- ==== Sys2Proof/Laws/PerInstr.lean ====
section
/-! SUPPORT. Statements for every command, made per constructor: its header matches its row of the opcode map and has the
length the row gives (R50, R51, R60). -/

namespace Sys2Proof.Laws.HeaderPattern

/-- The header of a command matches its row of the opcode map (R50). -/
def Statement (i : Instr) : Prop := encode i &&& i.row.mask = i.row.pattern

theorem setPixel (x : Column) (y : Row) (v : Bool) : Statement (.setPixel x y v) := by
  simp only [Statement, encode, Instr.row, rowSetPixel]
  ext k hk
  interval_cases k <;> simp

theorem getPixel (x : Column) (y : Row) : Statement (.getPixel x y) := by
  simp only [Statement, encode, Instr.row, rowGetPixel]
  ext k hk
  interval_cases k <;> simp

theorem readStripe (c : Column) (st : StripeIx) : Statement (.readStripe c st) := by
  simp only [Statement, encode, Instr.row, rowReadStripe]
  ext k hk
  interval_cases k <;> simp

theorem writeStripe (c : Column) (st : StripeIx) (data : Byte) : Statement (.writeStripe c st data) := by
  simp only [Statement, encode, Instr.row, rowWriteStripe]
  ext k hk
  interval_cases k <;> simp

theorem drawSprite (x0 : Column) (y0 : Row) (w : BitVec 8) : Statement (.drawSprite x0 y0 w) := by
  simp only [Statement, encode, Instr.row, rowDrawSprite]
  ext k hk
  interval_cases k <;> simp

theorem readStatus : Statement .readStatus := by
  rw [Statement]
  decide

theorem clearStatus : Statement .clearStatus := by
  rw [Statement]
  decide

end Sys2Proof.Laws.HeaderPattern

namespace Sys2Proof.Laws.HeaderLength

/-- The length found from the header alone is that of the whole command (R51). -/
def Statement (i : Instr) : Prop := commandLength (encode i) = 1 + i.payloadWords

/-- A header whose opcode is not 0x5 is one word long. -/
theorem one_word {cw : Word} (h : fieldOp cw ≠ 5#4) : commandLength cw = 1 := by
  simp [commandLength, h]

theorem setPixel (x : Column) (y : Row) (v : Bool) : Statement (.setPixel x y v) := by
  refine one_word (cw := encode (.setPixel x y v)) ?_
  have h : fieldOp (encode (.setPixel x y v)) = 1#4 := by
    simp only [fieldOp, encode]
    ext k hk
    interval_cases k <;> simp
  rw [h]
  decide

theorem getPixel (x : Column) (y : Row) : Statement (.getPixel x y) := by
  refine one_word (cw := encode (.getPixel x y)) ?_
  have h : fieldOp (encode (.getPixel x y)) = 2#4 := by
    simp only [fieldOp, encode]
    ext k hk
    interval_cases k <;> simp
  rw [h]
  decide

theorem readStripe (c : Column) (st : StripeIx) : Statement (.readStripe c st) := by
  refine one_word (cw := encode (.readStripe c st)) ?_
  have h : fieldOp (encode (.readStripe c st)) = 3#4 := by
    simp only [fieldOp, encode]
    ext k hk
    interval_cases k <;> simp
  rw [h]
  decide

theorem writeStripe (c : Column) (st : StripeIx) (data : Byte) : Statement (.writeStripe c st data) := by
  refine one_word (cw := encode (.writeStripe c st data)) ?_
  have h : fieldOp (encode (.writeStripe c st data)) = 4#4 := by
    simp only [fieldOp, encode]
    ext k hk
    interval_cases k <;> simp
  rw [h]
  decide

theorem drawSprite (x0 : Column) (y0 : Row) (w : BitVec 8) : Statement (.drawSprite x0 y0 w) := by
  have h : fieldOp (encode (.drawSprite x0 y0 w)) = 5#4 := by
    simp only [fieldOp, encode]
    ext k hk
    interval_cases k <;> simp
  have hw : fieldData (encode (.drawSprite x0 y0 w)) = w := by
    simp only [fieldData, encode]
    ext k hk
    interval_cases k <;> simp
  simp [Statement, commandLength, h, hw, Instr.payloadWords]

theorem readStatus : Statement .readStatus := one_word (cw := encode .readStatus) (by decide)

theorem clearStatus : Statement .clearStatus := one_word (cw := encode .clearStatus) (by decide)

end Sys2Proof.Laws.HeaderLength
end

