-- ==== Sys2Proof/Laws/Turn.lean ====
section
/-! SUPPORT. What a command can do, what one turn of PSB can do, and what one step of the machine can do, each said once. -/

namespace Sys2Proof.Machine

/-- What a command can answer: its own next state, and nothing else (R81). Where the stripe store stalls, a one-word
command that makes an access ends with it outstanding (R108). -/
theorem exec_cases (i : Instr) (s : State) :
    (s.storeStalls = true ∧ ∃ a, firstAccess i = some a ∧ exec i s = .next (s.takeWord.await a))
      ∨ (s.storeStalls = false ∧ ∃ x y v, i = .setPixel x y v ∧ exec i s = .next (s.pixelWrite x y v).takeWord)
      ∨ (s.storeStalls = false ∧ ∃ x y, i = .getPixel x y ∧ exec i s = .next (s.answerPixel x y).takeWord)
      ∨ (s.storeStalls = false ∧ ∃ c st, i = .readStripe c st ∧ exec i s = .next (s.answerStripe c st).takeWord)
      ∨ (s.storeStalls = false ∧ ∃ c st v, i = .writeStripe c st v ∧ exec i s = .next (s.stripeWrite c st v).takeWord)
      ∨ (∃ x0 y0 w, i = .drawSprite x0 y0 w ∧ exec i s = .next (s.takeWord.blitStart x0 y0 w false).blitRun)
      ∨ (i = .readStatus ∧ exec i s = .next (s.respond s.status.word).takeWord)
      ∨ (i = .clearStatus ∧ exec i s = .next s.clearFlags.takeWord) := by
  cases i with
  | drawSprite x0 y0 w => exact .inr (.inr (.inr (.inr (.inr (.inl ⟨x0, y0, w, rfl, rfl⟩)))))
  | readStatus => exact .inr (.inr (.inr (.inr (.inr (.inr (.inl ⟨rfl, rfl⟩))))))
  | clearStatus => exact .inr (.inr (.inr (.inr (.inr (.inr (.inr ⟨rfl, rfl⟩))))))
  | setPixel x y v =>
    cases h : s.storeStalls with
    | true => exact .inl ⟨rfl, _, rfl, by simp [exec, execSetPixel, h]⟩
    | false => exact .inr (.inl ⟨rfl, x, y, v, rfl, by simp [exec, execSetPixel, h]⟩)
  | getPixel x y =>
    cases h : s.storeStalls with
    | true => exact .inl ⟨rfl, _, rfl, by simp [exec, execGetPixel, h]⟩
    | false => exact .inr (.inr (.inl ⟨rfl, x, y, rfl, by simp [exec, execGetPixel, h]⟩))
  | readStripe c st =>
    cases h : s.storeStalls with
    | true => exact .inl ⟨rfl, _, rfl, by simp [exec, execReadStripe, h]⟩
    | false => exact .inr (.inr (.inr (.inl ⟨rfl, c, st, rfl, by simp [exec, execReadStripe, h]⟩)))
  | writeStripe c st v =>
    cases h : s.storeStalls with
    | true => exact .inl ⟨rfl, _, rfl, by simp [exec, execWriteStripe, h]⟩
    | false => exact .inr (.inr (.inr (.inr (.inl ⟨rfl, c, st, v, rfl, by simp [exec, execWriteStripe, h]⟩))))

/-- What an illegal header does: ILL and the header consumed, and for OP = 5 a run of the sequencer with its pixels
suppressed (R78, R82). -/
theorem illegalHeader_cases (s : State) (cw : Word) (why : Reject) :
    ((∀ w, why ≠ .illegalBlit w) ∧ s.illegalHeader cw why = s.raiseIll.takeWord)
      ∨ ∃ w, why = .illegalBlit w ∧ s.illegalHeader cw why =
          (s.raiseIll.takeWord.blitStart (fieldX cw) (fieldY cw) w true).blitRun := by
  cases why with
  | unassignedOpcode op => exact .inl ⟨nofun, rfl⟩
  | reservedBits op => exact .inl ⟨nofun, rfl⟩
  | illegalBlit w => exact .inr ⟨w, rfl, rfl⟩

/-- What going on from an outstanding access does: the access completes, with its pixel's write half, and a DRAW_SPRITE runs
on (R65, R69, R108). -/
theorem finishAccess_cases (s : State) (a : PendingAccess) :
    (((s.completeAccess a).completeSecond.phase = .idle ∧ s.finishAccess a = (s.completeAccess a).completeSecond)
      ∨ ((s.completeAccess a).completeSecond.phase = .blit
          ∧ s.finishAccess a = (s.completeAccess a).completeSecond.blitRun)) := by
  cases h : (s.completeAccess a).completeSecond.phase with
  | idle => exact .inl ⟨rfl, by simp [State.finishAccess, h]⟩
  | blit => exact .inr ⟨rfl, by simp [State.finishAccess, h]⟩

/-- What one turn of PSB can do: hold without change, go on from an outstanding access, go on with a DRAW_SPRITE, execute a
legal header, or record an illegal one (R11, R12, R13, R51, R81, R97, R108). -/
theorem psbStep_cases (s : State) :
    (s.psbStep = .next s
        ∧ (s.rst = true ∨ ((∃ a, s.outstanding = some a) ∧ s.storeStalls = true)
          ∨ (s.outstanding = none ∧ s.phase = .idle ∧ (s.rqHasRoom = false ∨ s.cmdIn = []))))
      ∨ (s.rst = false ∧ s.storeStalls = false ∧ ∃ a, s.outstanding = some a ∧ s.psbStep = .next (s.finishAccess a))
      ∨ (s.rst = false ∧ s.outstanding = none ∧ s.phase = .blit ∧ s.psbStep = .next s.blitRun)
      ∨ (s.rst = false ∧ s.outstanding = none ∧ s.phase = .idle ∧ s.rqHasRoom = true
          ∧ ∃ cw rest, s.cmdIn = cw :: rest
            ∧ ((∃ i, decode cw = .ok i ∧ s.psbStep = exec i s)
              ∨ ∃ why, decode cw = .error why ∧ s.psbStep = .next (s.illegalHeader cw why))) := by
  cases hr : s.rst with
  | true => exact .inl ⟨by simp [State.psbStep, hr], .inl rfl⟩
  | false =>
    cases ho : s.outstanding with
    | some a =>
      cases hs : s.storeStalls with
      | true => exact .inl ⟨by simp [State.psbStep, hr, ho, hs], .inr (.inl ⟨⟨a, rfl⟩, rfl⟩)⟩
      | false => exact .inr (.inl ⟨rfl, rfl, a, rfl, by simp [State.psbStep, hr, ho, hs]⟩)
    | none =>
      cases hp : s.phase with
      | blit => exact .inr (.inr (.inl ⟨rfl, rfl, rfl, by simp [State.psbStep, hr, ho, hp]⟩))
      | idle =>
        cases hq : s.rqHasRoom with
        | false => exact .inl ⟨by simp [State.psbStep, hr, ho, hp, hq], .inr (.inr ⟨rfl, rfl, .inl rfl⟩)⟩
        | true =>
          cases hc : s.cmdIn with
          | nil => exact .inl ⟨by simp [State.psbStep, hr, ho, hp, hq, hc], .inr (.inr ⟨rfl, rfl, .inr rfl⟩)⟩
          | cons cw rest =>
            refine .inr (.inr (.inr ⟨rfl, rfl, rfl, rfl, cw, rest, rfl, ?_⟩))
            have e : s.psbStep = s.runHeader cw := by simp [State.psbStep, hr, ho, hp, hq, hc]
            rw [e, State.runHeader]
            cases hd : decode cw with
            | ok i => exact .inl ⟨i, rfl, rfl⟩
            | error why => exact .inr ⟨why, rfl, rfl⟩

/-- A command always answers a next state (R81). -/
theorem exec_next (i : Instr) (s : State) : ∃ t, exec i s = .next t := by cases i <;> exact ⟨_, rfl⟩

/-- One turn of PSB always answers a next state (R81). -/
theorem psbStep_next (s : State) : ∃ t, s.psbStep = .next t := by
  rcases psbStep_cases s with ⟨h, -⟩ | ⟨-, -, a, -, h⟩ | ⟨-, -, -, h⟩ | ⟨-, -, -, -, cw, rest, -, h⟩
  · exact ⟨_, h⟩
  · exact ⟨_, h⟩
  · exact ⟨_, h⟩
  · rcases h with ⟨i, -, h⟩ | ⟨why, -, h⟩
    · obtain ⟨t, e⟩ := exec_next i s
      exact ⟨t, h.trans e⟩
    · exact ⟨_, h⟩

/-- A property of the state that is kept by each operation that the completion of an access is made of, its completion
keeps. -/
theorem completeAccess_keeps {P : State → Prop}
    (latch : ∀ s (q : Latches), P s → P { s with seq := q })
    (outstanding : ∀ s o, P s → P { s with outstanding := o })
    (read : ∀ s c st, P s → P (s.record (.rd c st (s.stripe c st))))
    (write : ∀ s c st v, P s → P (s.stripeWrite c st v))
    (respond : ∀ s v, P s → P (s.respond v))
    {s : State} (h : P s) (a : PendingAccess) : P (s.completeAccess a) := by
  cases a with
  | readStripe c st => exact outstanding _ none (respond _ _ (read s c st h))
  | writeStripe c st v => exact outstanding _ none (write s c st v h)
  | getPixel x y => exact outstanding _ none (respond _ _ (read s x (pixelStripe y) h))
  | pixelRead x y v => exact outstanding _ (some _) (latch _ _ (read s x (pixelStripe y) h))
  | pixelWrite x y v =>
    have done : ∀ t, P t → P t.pixelDone := by
      intro t ht
      rw [State.pixelDone]
      split
      · exact outstanding t none ht
      · exact latch _ _ (outstanding t none ht)
    exact done _ (write s x (pixelStripe y) _ h)

/-- One induction for a whole turn of PSB: a property of the state that each of its operations keeps holds after the turn.
A word is taken only where one is presented (R11). -/
theorem psbStep_keeps {P : State → Prop}
    (take : ∀ s, P s → s.cmdIn ≠ [] → P s.takeWord)
    (latch : ∀ s (q : Latches), P s → P { s with seq := q })
    (phase : ∀ s p, P s → P { s with phase := p })
    (outstanding : ∀ s o, P s → P { s with outstanding := o })
    (read : ∀ s c st, P s → P (s.record (.rd c st (s.stripe c st))))
    (write : ∀ s c st v, P s → P (s.stripeWrite c st v))
    (respond : ∀ s v, P s → P (s.respond v))
    (flags : ∀ s f, P s → P { s with status := f })
    {s t : State} (ht : s.psbStep = .next t) (h : P s) : P t := by
  have pixel : ∀ u x y v, P u → P (u.pixelWrite x y v) := fun u x y v hu =>
    write _ x (pixelStripe y) _ (latch _ _ (read u x (pixelStripe y) hu))
  have loop : ∀ n u, P u → P (blitLoop n u) := fun n u hu =>
    blitLoop_keeps (fun v hv => phase v _ hv)
      (fun v w _ hv hc => latch _ _ (take v hv (by simp [hc])))
      (fun v hv => drawPixel_keeps hv (fun x y b => pixel v x y b hv) (fun _ => flags v _ hv))
      (fun v hv => latch v _ hv) (fun v hv _ => outstanding v (some _) hv) n u hu
  have start : ∀ (u : State) x y w b, P u → P (u.blitStart x y w b) := fun u x y w b hu =>
    latch { u with phase := .blit } _ (phase u .blit hu)
  have complete : ∀ u a, P u → P (u.completeAccess a) := fun u a hu =>
    completeAccess_keeps latch outstanding read write respond hu a
  have second : ∀ u, P u → P u.completeSecond := by
    intro u hu
    rw [State.completeSecond]
    split
    · exact hu
    · exact complete u _ hu
  rcases psbStep_cases s with ⟨e, -⟩ | ⟨-, -, a, -, e⟩ | ⟨-, -, -, e⟩
    | ⟨-, -, -, -, cw, rest, hc, ⟨i, -, e⟩ | ⟨why, -, e⟩⟩
  · rw [e] at ht
    cases ht
    exact h
  · rw [e] at ht
    cases ht
    rcases finishAccess_cases s a with ⟨-, e⟩ | ⟨-, e⟩ <;> rw [e]
    · exact second _ (complete s a h)
    · exact loop _ _ (second _ (complete s a h))
  · rw [e] at ht
    cases ht
    exact loop _ _ h
  · have hne : s.cmdIn ≠ [] := by simp [hc]
    rw [e] at ht
    rcases exec_cases i s with ⟨-, a, -, e⟩ | ⟨-, _, _, _, -, e⟩ | ⟨-, _, _, -, e⟩ | ⟨-, _, _, -, e⟩
      | ⟨-, _, _, _, -, e⟩ | ⟨_, _, _, -, e⟩ | ⟨-, e⟩ | ⟨-, e⟩ <;> rw [e] at ht <;> cases ht
    · exact outstanding _ (some a) (take _ h hne)
    · exact take _ (pixel _ _ _ _ h) hne
    · exact take _ (respond _ _ (read s _ _ h)) hne
    · exact take _ (respond _ _ (read s _ _ h)) hne
    · exact take _ (write _ _ _ _ h) hne
    · exact loop _ _ (start _ _ _ _ _ (take _ h hne))
    · exact take _ (respond _ _ h) hne
    · exact take _ (flags _ _ h) hne
  · have hne : s.cmdIn ≠ [] := by simp [hc]
    rw [e] at ht
    have hill : P s.raiseIll.takeWord := take _ (flags _ _ h) hne
    rcases illegalHeader_cases s cw why with ⟨-, e⟩ | ⟨w, -, e⟩ <;> rw [e] at ht <;> cases ht
    · exact hill
    · exact loop _ _ (start _ _ _ _ _ hill)

/-- PSB is inside a command exactly in phase BLIT or with an access outstanding (R22; log entry 28). -/
theorem inCommand_iff (s : State) : s.inCommand = true ↔ s.phase = .blit ∨ ∃ a, s.outstanding = some a := by
  simp [State.inCommand, Option.isSome_iff_exists]

theorem inCommand_eq_false_iff (s : State) : s.inCommand = false ↔ s.phase = .idle ∧ s.outstanding = none := by
  cases hp : s.phase <;> cases ho : s.outstanding <;> simp [State.inCommand, hp, ho]

/-- What one step of the machine can do: PSB's turn, or one move of another agent (R5, R11, R12, R13, R39, R97, R108). -/
theorem step_cases (s : State) :
    (s.inputs = [] ∧ step s = s.psbStep)
      ∨ (∃ later, s.inputs = .psbTurn :: later ∧ step s = ({ s with inputs := later } : State).psbStep)
      ∨ (∃ w later, s.inputs = .presentWord w :: later
          ∧ step s = .next { s with inputs := later, cmdIn := s.cmdIn ++ [w] })
      ∨ (∃ later, s.inputs = .takeResponse :: later ∧ s.rq = [] ∧ step s = s.psbStep)
      ∨ (∃ later v rest, s.inputs = .takeResponse :: later ∧ s.rq = v :: rest
          ∧ step s = .next (({ s with inputs := later } : State).deliver v rest))
      ∨ (∃ c st v later, s.inputs = .otherWrite c st v :: later ∧ s.inCommand = false
          ∧ step s = .next (({ s with inputs := later } : State).setStripe c st v))
      ∨ (∃ c st v later, s.inputs = .otherWrite c st v :: later ∧ s.inCommand = true
          ∧ step s = .refused .secondWriterDuringCommand)
      ∨ (∃ e k later, s.inputs = .assertReset e k :: later
          ∧ step s = .next (({ s with inputs := later } : State).abortedTurn e k).enterReset)
      ∨ (∃ later, s.inputs = .releaseReset :: later ∧ step s = .next { s with inputs := later, rst := false })
      ∨ (∃ later, s.inputs = .storeStalls :: later ∧ step s = .next { s with inputs := later, storeStalls := true })
      ∨ (∃ later, s.inputs = .storeCompletes :: later ∧ s.outstanding = none
          ∧ step s = .next { s with inputs := later })
      ∨ (∃ later a, s.inputs = .storeCompletes :: later ∧ s.outstanding = some a
          ∧ step s = .next (({ s with inputs := later } : State).completeAccess a))
      ∨ (∃ later, s.inputs = .storeAnswers :: later
          ∧ step s = .next { s with inputs := later, storeStalls := false }) := by
  cases hi : s.inputs with
  | nil => exact .inl ⟨rfl, by simp [step, State.agentStep, hi]⟩
  | cons input later =>
    have e : step s = s.inputStep later input := by simp [step, State.agentStep, hi]
    refine .inr ?_
    rw [e]
    cases input with
    | psbTurn => exact .inl ⟨later, rfl, rfl⟩
    | presentWord w => exact .inr (.inl ⟨w, later, rfl, rfl⟩)
    | takeResponse =>
      cases hq : s.rq with
      | nil => exact .inr (.inr (.inl ⟨later, rfl, rfl, by simp [State.inputStep, hq]⟩))
      | cons v rest =>
        exact .inr (.inr (.inr (.inl ⟨later, v, rest, rfl, rfl, by simp [State.inputStep, hq]⟩)))
    | otherWrite c st v =>
      cases hp : s.inCommand with
      | false =>
        exact .inr (.inr (.inr (.inr (.inl ⟨c, st, v, later, rfl, rfl, by simp [State.inputStep, hp]⟩))))
      | true =>
        exact .inr (.inr (.inr (.inr (.inr (.inl ⟨c, st, v, later, rfl, rfl, by simp [State.inputStep, hp]⟩)))))
    | assertReset ev k => exact .inr (.inr (.inr (.inr (.inr (.inr (.inl ⟨ev, k, later, rfl, rfl⟩))))))
    | releaseReset => exact .inr (.inr (.inr (.inr (.inr (.inr (.inr (.inl ⟨later, rfl, rfl⟩)))))))
    | storeStalls => exact .inr (.inr (.inr (.inr (.inr (.inr (.inr (.inr (.inl ⟨later, rfl, rfl⟩))))))))
    | storeCompletes =>
      refine .inr (.inr (.inr (.inr (.inr (.inr (.inr (.inr (.inr ?_))))))))
      cases ho : s.outstanding with
      | none => exact .inl ⟨later, rfl, rfl, by simp [State.inputStep, ho]⟩
      | some a => exact .inr (.inl ⟨later, a, rfl, rfl, by simp [State.inputStep, ho]⟩)
    | storeAnswers =>
      exact .inr (.inr (.inr (.inr (.inr (.inr (.inr (.inr (.inr (.inr (.inr ⟨later, rfl, rfl⟩))))))))))

end Sys2Proof.Machine
end

