-- ==== Sys2Proof/Tests/Slice0.lean ====
section
/-! SUPPORT. Tests, each one step on a small state with the expected value taken from 95_test_vectors.md or worked from a
rule, and for every obligation with hypotheses a named witness that meets all of them together. -/

namespace Sys2Proof.Tests

open Sys2Proof Sys2Proof.Machine Sys2Proof.Claims

/-- Right after reset, with words presented and some stripes written. -/
def ready (words : List Word) (fb : Memory) : State := { State.reset with cmdIn := words, fb := fb }

/-- The state after one step. -/
def after (s : State) : State := stateAfter s (step s)

/-! ## Well-formedness: an ill-formed term for each check (R48, R58) -/

theorem test_command_wf : Command.wf ⟨.drawSprite 0#7 0#6 5#8, [0x04030201#32, 5#32]⟩ = true := by decide

theorem test_command_payload_missing : Command.wf ⟨.drawSprite 0#7 0#6 5#8, [0x04030201#32]⟩ = false := by decide

theorem test_command_payload_extra : Command.wf ⟨.setPixel 0#7 0#6 true, [0#32]⟩ = false := by decide

theorem test_line_limits : (AsmLine.setPixel 127 63 1).wf = true ∧ (AsmLine.writeStripe 127 7 255).wf = true
    ∧ (AsmLine.drawSprite 127 63 [255]).wf = true := by decide

theorem test_line_x : assemble (.setPixel 128 0 0) = none ∧ assemble (.getPixel 128 0) = none
    ∧ assemble (.pset 128 0) = none ∧ assemble (.pclr 128 0) = none
    ∧ assemble (.drawSprite 128 0 []) = none := by decide

theorem test_line_y : assemble (.setPixel 0 64 0) = none ∧ assemble (.getPixel 0 64) = none
    ∧ assemble (.pset 0 64) = none ∧ assemble (.pclr 0 64) = none
    ∧ assemble (.drawSprite 0 64 []) = none := by decide

theorem test_line_v : assemble (.setPixel 0 0 2) = none := by decide

theorem test_line_c : assemble (.readStripe 128 0) = none ∧ assemble (.writeStripe 128 0 0) = none
    ∧ assemble (.clearColumn 128) = none := by decide

theorem test_line_s : assemble (.readStripe 0 8) = none ∧ assemble (.writeStripe 0 8 0) = none := by decide

theorem test_line_data : assemble (.writeStripe 0 0 256) = none ∧ assemble (.drawSprite 0 0 [256]) = none := by decide

theorem test_line_sprite_too_wide : (AsmLine.drawSprite 0 0 (List.replicate 256 0)).wf = false := by
  have h : ¬(List.replicate 256 0).length ≤ Config.wMax := by
    rw [List.length_replicate]
    decide
  simp only [AsmLine.wf, decide_eq_false h, Bool.and_false, Bool.false_and]

theorem test_line_raw_word : assemble (.rawWord 0x100000000) = none := by decide

/-- The assembly of P3 and V-B6. -/
theorem test_line_words : assemble (.drawSprite 16 0 [1, 2, 3, 4, 5])
      = some [0x50050010#32, 0x04030201#32, 0x00000005#32]
    ∧ assemble (.writeStripe 126 7 0) = some [0x4000077E#32] := by decide

/-! ## Decoding: words written bit by bit from the fixed-pattern strings of R50 -/

theorem test_decode_setPixel :
    decode 0b00010000000000010011111101111111#32 = .ok (.setPixel 127#7 63#6 true) := by decide

theorem test_decode_getPixel :
    decode 0b00100000000000000001001100000101#32 = .ok (.getPixel 5#7 19#6) := by decide

theorem test_decode_readStripe :
    decode 0b00110000000000000000011100000011#32 = .ok (.readStripe 3#7 7#3) := by decide

theorem test_decode_writeStripe :
    decode 0b01000000101001010000011100000011#32 = .ok (.writeStripe 3#7 7#3 0xA5#8) := by decide

theorem test_decode_drawSprite :
    decode 0b01010000111111110000000001111111#32 = .ok (.drawSprite 127#7 0#6 255#8) := by decide

theorem test_decode_readStatus : decode 0b01100000000000000000000000000000#32 = .ok .readStatus := by decide

theorem test_decode_clearStatus : decode 0b01110000000000000000000000000000#32 = .ok .clearStatus := by decide

/-- V-S2, V-S3, V-S5, V-P8, V-P9, V-P12, V-T4, V-T5, V-B8: a reserved bit. -/
theorem test_decode_reserved :
    decode 0x30010703#32 = .error (.reservedBits 3#4) ∧ decode 0x30000803#32 = .error (.reservedBits 3#4)
      ∧ decode 0x48A50703#32 = .error (.reservedBits 4#4) ∧ decode 0x10000085#32 = .error (.reservedBits 1#4)
      ∧ decode 0x10100000#32 = .error (.reservedBits 1#4) ∧ decode 0x20011305#32 = .error (.reservedBits 2#4)
      ∧ decode 0x70000001#32 = .error (.reservedBits 7#4) ∧ decode 0x60000001#32 = .error (.reservedBits 6#4)
      ∧ decode 0x50010080#32 = .error (.illegalBlit 1#8) := by decide

/-- R54: every unassigned opcode, at an end of its range. -/
theorem test_decode_unassigned :
    decode 0x0FFFFFFF#32 = .error (.unassignedOpcode 0#4) ∧ decode 0x80000000#32 = .error (.unassignedOpcode 8#4)
      ∧ decode 0xFFFFFFFF#32 = .error (.unassignedOpcode 15#4) := by decide

/-- R51: the length depends on OP and W only, legal or not. -/
theorem test_length : commandLength 0x50FF007F#32 = 65 ∧ commandLength 0x50010080#32 = 2
    ∧ commandLength 0x50000000#32 = 1 ∧ commandLength 0x4FFF0000#32 = 1 := by decide

theorem test_decodeTableWord : decodeTableWord 32 0x50FF007F = some (.drawSprite 127#7 0#6 255#8)
    ∧ decodeTableWord 32 0x00000000 = none := by decide

/-! ## The commands, one step each -/

/-- V-P1: events `Rd(5,2)->0x00, Wr(5,2,0x08)`. -/
theorem test_setPixel_sets : let t := after (ready [0x10011305#32] [(42, 0x00#8)])
    t.stripe 5#7 2#3 = 0x08#8 ∧ t.trace = [.rd 5#7 2#3 0x00#8, .wr 5#7 2#3 0x08#8] ∧ t.cp = 1 := by decide

/-- V-P2: the bit is cleared and the other seven stay. -/
theorem test_setPixel_clears : (after (ready [0x10001305#32] [(42, 0xFF#8)])).stripe 5#7 2#3 = 0xF7#8 := by decide

/-- V-P10, V-P11: pixel (5, 19) is set and (5, 18) clear. -/
theorem test_getPixel : (after (ready [0x20001305#32] [(42, 0x08#8)])).rq = [1#32]
    ∧ (after (ready [0x20001205#32] [(42, 0x08#8)])).rq = [0#32] := by decide

/-- V-P13: the last pixel. -/
theorem test_getPixel_last : (after (ready [0x20003F7F#32] [(1023, 0x80#8)])).rq = [1#32] := by decide

/-- V-S6: the last stripe. -/
theorem test_readStripe_last : (after (ready [0x3000077F#32] [(1023, 0x3C#8)])).rq = [0x3C#32] := by decide

/-- V-S1: nothing changes but the response, the trace and `cp`. -/
theorem test_readStripe : let t := after (ready [0x30000703#32] [(31, 0xA5#8)])
    t.rq = [0xA5#32] ∧ t.fb = [(31, 0xA5#8)] ∧ t.cp = 1 := by decide

/-- V-S4: the pixels of the stripe written. -/
theorem test_writeStripe_pixels : let t := after (ready [0x40A50703#32] [])
    t.pixel 3#7 56#6 = true ∧ t.pixel 3#7 57#6 = false ∧ t.pixel 3#7 58#6 = true ∧ t.pixel 3#7 61#6 = true
      ∧ t.pixel 3#7 63#6 = true := by decide

/-- V-S7: the write is made although it clears. -/
theorem test_writeStripe_event : (after (ready [0x40000000#32] [(0, 0x77#8)])).trace = [.wr 0#7 0#3 0x00#8] := by
  decide

/-- V-B3: a sprite over two stripes, its 0 bits clear (opaque), the other rows keep their values. -/
theorem test_drawSprite_opaque : let t := after (ready [0x5001050A#32, 0#32] [(80, 0xFF#8), (81, 0xFF#8)])
    t.stripe 10#7 0#3 = 0x1F#8 ∧ t.stripe 10#7 1#3 = 0xE0#8 ∧ t.trace.length = 16 ∧ t.cp = 2 := by decide

/-- V-B4: off the right and the bottom edge; the pixels on the screen are drawn and OOR is set. -/
theorem test_drawSprite_clips :
    let t := after (ready [0x50033C7E#32, 0x00FF8101#32] [(1015, 0x00#8), (1023, 0x00#8)])
    t.stripe 126#7 7#3 = 0x10#8 ∧ t.stripe 127#7 7#3 = 0x10#8 ∧ t.status = ⟨false, true⟩ ∧ t.trace.length = 16
      ∧ t.cp = 2 := by decide

/-- V-T6: bit 0 is ILL, bit 1 OOR, and reading clears nothing. -/
theorem test_readStatus : let t := after { ready [0x60000000#32] [] with status := ⟨true, true⟩ }
    t.rq = [3#32] ∧ t.status = ⟨true, true⟩ := by decide

/-- V-T1: right after reset. -/
theorem test_readStatus_reset : (after (ready [0x60000000#32] [])).rq = [0#32] := by decide

/-- R80: with STATUS = 0x3 both flags are cleared. -/
theorem test_clearStatus : (after { ready [0x70000000#32] [] with status := ⟨true, true⟩ }).status = ⟨false, false⟩ := by
  decide

/-- V-T4: an illegal CLEAR_STATUS clears nothing. -/
theorem test_clearStatus_illegal :
    (after { ready [0x70000001#32] [] with status := ⟨true, true⟩ }).status = ⟨true, true⟩ := by decide

/-- V-B8: the payload of an illegal blit header is consumed and discarded. -/
theorem test_illegal_blit : let t := after (ready [0x50010080#32, 0xFF#32, 0x60000000#32] [])
    t.status = ⟨true, false⟩ ∧ t.cmdIn = [0x60000000#32] ∧ t.cp = 2 ∧ t.trace = [] ∧ t.fb = [] := by decide

/-- V-T7: an unassigned opcode. -/
theorem test_illegal_opcode : let t := after (ready [0xF1234567#32] [])
    t.status = ⟨true, false⟩ ∧ t.cp = 1 ∧ t.rq = [] := by decide

/-- R99: an abort between the read and the write of a SET_PIXEL leaves the stripe as it was. -/
theorem test_abort : let t := after { ready [0x10011305#32] [(42, 0x00#8)] with inputs := [.assertReset 1 1] }
    t.fb = [(42, 0x00#8)] ∧ t.trace = [.rd 5#7 2#3 0x00#8] ∧ t.cmdIn = [] ∧ t.rst = true := by decide

/-- R13, R108: a read that the store keeps waiting queues its response only when it completes. -/
theorem test_stall_read : (after { ready [0x30000703#32] [(31, 0xA5#8)] with storeStalls := true }).rq = []
    ∧ (after { ready [] [(31, 0xA5#8)] with
        storeStalls := true, outstanding := some (.readStripe 3#7 7#3), inputs := [.storeCompletes] }).rq = [0xA5#32] := by
  decide

/-- R34, R108: between the read and the write of a SET_PIXEL the stripe is as it was. -/
theorem test_stall_pixel : let t := after { ready [] [(42, 0x52#8)] with
      storeStalls := true, outstanding := some (.pixelRead 5#7 19#6 true), inputs := [.storeCompletes] }
    t.stripe 5#7 2#3 = 0x52#8 ∧ t.outstanding = some (.pixelWrite 5#7 19#6 true) ∧ t.seq.rmw = 0x52#8 := by decide

/-- The host's placing of an instruction: the next step runs it. -/
theorem test_withFetchWord : (after (State.reset.withFetchWord 32 0x40A50703)).stripe 3#7 7#3 = 0xA5#8 := by decide

/-! ## Witnesses: for each obligation with hypotheses, a state and operands that meet all of them together, and one for each
of its clauses -/

/-- A ready state is at its first header. -/
theorem ready_atHeader (cw : Word) (rest : List Word) (fb : Memory) : AtHeader (ready (cw :: rest) fb) cw rest :=
  ⟨rfl, rfl, rfl, rfl, Nat.succ_pos _, rfl⟩

/-- A ready state whose memory is canonical has the invariant. -/
theorem ready_inv (words : List Word) {fb : Memory} (h : fb.wf) : (ready words fb).Inv :=
  ⟨h, Nat.zero_le _, nofun, nofun, nofun, nofun, nofun⟩

/-- A ready state in which PSB is inside a DRAW_SPRITE 126, 60 of five columns, before column 4. -/
def holding (bill : Bool) (words : List Word) : State :=
  { ready words [] with
    phase := .blit
    seq := ⟨126#7, 60#6, 5#8, bill, 4#8, 0#3, 0#32, 0#8⟩
    status := ⟨bill, false⟩ }

/-- A ready state whose stripe store keeps the read of stripe (3, 7) waiting, or another access. -/
def stalled (a : Option PendingAccess) (inputs : List Input) : State :=
  { ready [] [(31, 0xA5#8)] with
    storeStalls := true
    outstanding := some (a.getD (.readStripe 3#7 7#3))
    inputs := inputs }

theorem witness_LegalWordIsItsEncoding : decode 0x50FF3F7F#32 = .ok (.drawSprite 127#7 63#6 255#8) := by decide

theorem witness_MatchAndMaskDecide : rowSetPixel ∈ opcodeTable ∧ 0x10011305#32 &&& rowSetPixel.mask = rowSetPixel.pattern
    ∧ 0x10100000#32 &&& rowSetPixel.mask ≠ rowSetPixel.pattern := by decide

theorem witness_IllegalHeadersAreNamed :
    (0x7FFFFFFF#32).toNat / 2 ^ 28 = 7 ∧ (0x80000000#32).toNat / 2 ^ 28 = 8
      ∧ (0x70000001#32 &&& rowClearStatus.mask ≠ rowClearStatus.pattern)
      ∧ (0x51000000#32).toNat / 2 ^ 28 = 5 ∧ 0x51000000#32 &&& 0xFF00C080#32 ≠ 0x50000000#32 := by decide

theorem witness_CommandStreamRoundTrip : Command.wf ⟨.drawSprite 16#7 0#6 5#8, [0x04030201#32, 0xFFFFFF05#32]⟩ = true
    ∧ Command.wf ⟨.drawSprite 0#7 0#6 0#8, []⟩ = true ∧ Command.wf ⟨.readStatus, []⟩ = true := by decide

theorem witness_PayloadPacking : 4 < [1#8, 2#8, 3#8, 4#8, 5#8].length
    ∧ packPayload [1#8, 2#8, 3#8, 4#8, 5#8] = [0x04030201#32, 0x00000005#32] := by decide

theorem witness_ByteLinkRoundTrip : linkBytes 0x04030201#32 = [1#8, 2#8, 3#8, 4#8] := by decide

theorem witness_AssemblerEncodesItsLine :
    assemble (.getPixel 127 63) = some [0x20003F7F#32] ∧ assemble (.readStripe 127 7) = some [0x3000077F#32]
      ∧ assemble (.writeStripe 3 7 0xA5) = some [0x40A50703#32]
      ∧ assemble (.drawSprite 0 0 [0x55, 0xAA, 0x55, 0xAA]) = some [0x50040000#32, 0xAA55AA55#32] := by decide

theorem witness_PseudoInstructionExpansion : (127 : Nat) < 128
    ∧ (assemble (.clearColumn 127)).map List.length = some 8 := by decide

theorem witness_ReadStripeReturnsTheByte :
    StoreAnswers (ready [0x30000703#32] []) ∧ Memory.written [] 3#7 7#3 = false ∧ (0x30010703#32).toNat / 2 ^ 28 = 3
      ∧ 0x30010703#32 &&& 0xFFFFF880#32 ≠ 0x30000000#32
      ∧ AtHeader (ready [0x30010703#32] []) 0x30010703#32 [] :=
  ⟨rfl, by decide, by decide, by decide, ready_atHeader _ _ _⟩

theorem witness_WriteStripeReplacesTheByte :
    StoreAnswers (ready [0x40A50703#32] []) ∧ (0x48A50703#32).toNat / 2 ^ 28 = 4 ∧ 0x48A50703#32 &&& 0xFF00F880#32 ≠ 0x40000000#32
      ∧ AtHeader (ready [0x48A50703#32] []) 0x48A50703#32 [] :=
  ⟨rfl, by decide, by decide, ready_atHeader _ _ _⟩

theorem witness_SetPixelWritesOneBit :
    StoreAnswers (ready [0x10011305#32] []) ∧ Memory.written [] 5#7 (rowStripe 19#6) = false ∧ (0x10000085#32).toNat / 2 ^ 28 = 1 ∧ 0x10000085#32 &&& 0xFFFEC080#32 ≠ 0x10000000#32
      ∧ AtHeader (ready [0x10000085#32] []) 0x10000085#32 [] :=
  ⟨rfl, by decide, by decide, by decide, ready_atHeader _ _ _⟩

theorem witness_GetPixelReturnsTheBit :
    StoreAnswers (ready [0x20001305#32] []) ∧ Memory.written [] 5#7 (rowStripe 19#6) = false ∧ (0x20011305#32).toNat / 2 ^ 28 = 2 ∧ 0x20011305#32 &&& 0xFFFFC080#32 ≠ 0x20000000#32
      ∧ AtHeader (ready [0x20011305#32] []) 0x20011305#32 [] :=
  ⟨rfl, by decide, by decide, by decide, ready_atHeader _ _ _⟩

theorem witness_ReadStatusReturnsTheFlags :
    (0x60000001#32).toNat / 2 ^ 28 = 6 ∧ (0x60000001#32 : Word) ≠ 0x60000000#32
      ∧ AtHeader (ready [0x60000001#32] []) 0x60000001#32 [] :=
  ⟨by decide, by decide, ready_atHeader _ _ _⟩

theorem witness_ClearStatusClearsBothFlags :
    (0x70000001#32).toNat / 2 ^ 28 = 7 ∧ (0x70000001#32 : Word) ≠ 0x70000000#32
      ∧ AtHeader (ready [0x70000001#32] []) 0x70000001#32 [] :=
  ⟨by decide, by decide, ready_atHeader _ _ _⟩

/-- V-B4 for the statements on a DRAW_SPRITE whose payload is there: a pixel of the sprite at each corner that is on the
screen, pixels just outside it, a stripe clear of it, and an overhang. -/
theorem witness_DrawSpriteDrawsItsPixels :
    StoreAnswers (ready [0x50033C7E#32, 0x00FF8101#32] [])
      ∧ ((3#8).toNat + 3) / 4 ≤ (ready [0x50033C7E#32, 0x00FF8101#32] []).cmdIn.tail.length
      ∧ InSprite 126#7 60#6 3 126#7 60#6 ∧ InSprite 126#7 60#6 3 127#7 63#6
      ∧ ¬InSprite 126#7 60#6 3 125#7 60#6 ∧ ¬InSprite 126#7 60#6 3 126#7 59#6
      ∧ (∀ b, b < 8 → ¬InSprite 126#7 60#6 3 126#7 (stripeRow 6#3 b)) ∧ Overhangs 126#7 60#6 3#8
      ∧ ¬Overhangs 125#7 56#6 3#8 := by
  unfold StoreAnswers InSprite Overhangs
  decide

/-- V-B5, V-B10: the least and the greatest width. -/
theorem witness_BlitterRefinesPseudocode :
    StoreAnswers (ready [0x50000000#32] [])
      ∧ StoreAnswers (ready (0x50FF007F#32 :: List.replicate 64 0xFFFFFFFF#32) [])
      ∧ ((0#8).toNat + 3) / 4 ≤ (ready [0x50000000#32] []).cmdIn.tail.length
      ∧ ((255#8).toNat + 3) / 4 ≤ (ready (0x50FF007F#32 :: List.replicate 64 0xFFFFFFFF#32) []).cmdIn.tail.length := by
  unfold StoreAnswers
  decide

/-- V-B4, V-B10: eight pixels on the screen. -/
theorem witness_DrawSpriteAccessCount :
    StoreAnswers (ready [0x50033C7E#32, 0x00FF8101#32] [])
      ∧ ((3#8).toNat + 3) / 4 ≤ (ready [0x50033C7E#32, 0x00FF8101#32] []).cmdIn.tail.length
      ∧ inRangePixels 126#7 60#6 3#8 = 8 ∧ inRangePixels 127#7 0#6 255#8 = 8 := by
  unfold StoreAnswers
  decide

/-- R105: a payload of one word where two are due, and of none. -/
theorem witness_DrawSpriteHoldsForPayload :
    let s := ready [0x50050010#32, 0x04030201#32] []
    StoreAnswers s ∧ s.cmdIn.tail.length < ((5#8).toNat + 3) / 4 ∧ s.inputs = [] ∧ s.rst = false ∧ s.outstanding = none
      ∧ (ready [0x50050010#32] []).cmdIn.tail.length < ((5#8).toNat + 3) / 4
      ∧ InSprite 16#7 0#6 (4 * s.cmdIn.tail.length) 19#7 7#6
      ∧ ¬InSprite 16#7 0#6 (4 * s.cmdIn.tail.length) 20#7 0#6 := by
  unfold StoreAnswers InSprite
  decide

theorem witness_LatePayloadMakesNoDifference :
    let s := ready [0x50050010#32, 0x04030201#32] []
    StoreAnswers s ∧ s.inputs = [] ∧ s.rst = false ∧ s.outstanding = none ∧ s.cmdIn ≠ []
      ∧ ∃ t, exec (.drawSprite 16#7 0#6 5#8) s = .next t ∧ t.phase = .blit :=
  ⟨rfl, rfl, rfl, rfl, by decide, _, rfl, by decide⟩

/-- V-B8, and the same header with no payload yet. -/
theorem witness_IllegalBlitDiscardsItsPayload :
    (0x50010080#32).toNat / 2 ^ 28 = 5 ∧ 0x50010080#32 &&& 0xFF00C080#32 ≠ 0x50000000#32
      ∧ ((0x50010080#32).toNat / 2 ^ 16 % 256 + 3) / 4 = 1
      ∧ AtHeader (ready [0x50010080#32, 0xFF#32] []) 0x50010080#32 [0xFF#32]
      ∧ AtHeader (ready [0x50010080#32] []) 0x50010080#32 [] :=
  ⟨by decide, by decide, by decide, ready_atHeader _ _ _, ready_atHeader _ _ _⟩

theorem witness_UnassignedOpcodeOnlySetsIll :
    (0x0FFFFFFF#32).toNat / 2 ^ 28 = 0 ∧ 8 ≤ (0x80000000#32).toNat / 2 ^ 28
      ∧ AtHeader (ready [0x0FFFFFFF#32] []) 0x0FFFFFFF#32 [] ∧ AtHeader (ready [0x80000000#32] []) 0x80000000#32 [] :=
  ⟨by decide, by decide, ready_atHeader _ _ _, ready_atHeader _ _ _⟩

/-- The bit of a stripe at each end; a bit inside the sprite of V-B4 and one outside it. -/
theorem witness_ViewsAreCoherent :
    let s := ready [0x50033C7E#32, 0x00FF8101#32] []
    StoreAnswers s ∧ ((3#8).toNat + 3) / 4 ≤ s.cmdIn.tail.length ∧ (0 : Nat) < 8 ∧ (7 : Nat) < 8
      ∧ InSprite 126#7 60#6 3 126#7 (stripeRow 7#3 4) ∧ ¬InSprite 126#7 60#6 3 126#7 (stripeRow 7#3 3) := by
  unfold StoreAnswers InSprite
  decide

theorem witness_PixelStripeInvariant : StoreAnswers (ready [0x10011305#32, 0x30000205#32] []) := rfl

theorem witness_StepRunsTheDecodedCommand :
    AtHeader (ready [0x40A50703#32] []) 0x40A50703#32 []
      ∧ decode 0x40A50703#32 = .ok (.writeStripe 3#7 7#3 0xA5#8) :=
  ⟨ready_atHeader _ _ _, by decide⟩

theorem witness_NothingStopsTheMachine :
    step { holding false [] with inputs := [.otherWrite 0#7 0#3 0#8] } = .refused .secondWriterDuringCommand := rfl

theorem witness_LateDiscardMakesNoDifference :
    AtHeader (ready [0x50050080#32, 0xFF#32] []) 0x50050080#32 [0xFF#32] ∧ (0x50050080#32).toNat / 2 ^ 28 = 5
      ∧ 0x50050080#32 &&& 0xFF00C080#32 ≠ 0x50000000#32 ∧ ((0x50050080#32).toNat / 2 ^ 16 % 256 + 3) / 4 = 2
      ∧ [0xFF#32].length < 2 ∧ 2 ≤ [0xFF#32].length + [0xEE#32].length
      ∧ ∃ t, step (ready [0x50050080#32, 0xFF#32] []) = .next t :=
  ⟨ready_atHeader _ _ _, by decide, by decide, by decide, by decide, by decide, _, rfl⟩

/-- The two forms of the length: a DRAW_SPRITE header of two words, and any other of one. -/
theorem witness_HeaderAdvancesByItsLength :
    StoreAnswers (ready [0x50033C7E#32, 0x00FF8101#32] []) ∧ StoreAnswers (ready [0x00000000#32] [])
      ∧ AtHeader (ready [0x50033C7E#32, 0x00FF8101#32] []) 0x50033C7E#32 [0x00FF8101#32]
      ∧ (0x50033C7E#32).toNat / 2 ^ 28 = 5 ∧ 1 + ((0x50033C7E#32).toNat / 2 ^ 16 % 256 + 3) / 4 = 2
      ∧ AtHeader (ready [0x00000000#32] []) 0x00000000#32 [] :=
  ⟨rfl, rfl, ready_atHeader _ _ _, by decide, by decide, ready_atHeader _ _ _⟩

theorem witness_CommandPointerCountsWordsTaken :
    ∃ t, (ready [0x50033C7E#32, 0x00FF8101#32] []).psbStep = .next t ∧ t.cp = 2 := ⟨_, rfl, by decide⟩

/-- CLEAR_STATUS and reset clear a flag. -/
theorem witness_StatusUpdateLaw_cleared :
    (∃ t, step { ready [0x70000000#32] [] with status := ⟨true, true⟩ } = .next t ∧ t.status = ⟨false, false⟩)
      ∧ ∃ t, step { ready [] [] with status := ⟨true, true⟩, inputs := [.assertReset 0 0] } = .next t
          ∧ t.status = ⟨false, false⟩ :=
  ⟨⟨_, rfl, by decide⟩, _, rfl, rfl⟩

/-- An illegal header, a DRAW_SPRITE that overhangs, and the rest of one set a flag. -/
theorem witness_StatusUpdateLaw_set :
    (∃ t, step (ready [0x00000000#32] []) = .next t ∧ t.status.ill = true)
      ∧ (∃ t, step (ready [0x50033C7E#32, 0x00FF8101#32] []) = .next t ∧ t.status.oor = true)
      ∧ ∃ t, step (holding false [0x000000FF#32]) = .next t ∧ t.status.oor = true :=
  ⟨⟨_, rfl, rfl⟩, ⟨_, rfl, by decide⟩, _, rfl, by decide⟩

theorem witness_ResponsesAreQueuedInOrder :
    StoreAnswers (ready [0x60000000#32] []) ∧ StoreAnswers (ready [0x20011305#32] [])
      ∧ (∃ t, AtHeader (ready [0x60000000#32] []) 0x60000000#32 [] ∧ step (ready [0x60000000#32] []) = .next t
        ∧ decode 0x60000000#32 = .ok .readStatus)
      ∧ ∃ t, AtHeader (ready [0x20011305#32] []) 0x20011305#32 [] ∧ step (ready [0x20011305#32] []) = .next t
          ∧ decode 0x20011305#32 = .error (.reservedBits 2#4) :=
  ⟨rfl, rfl, ⟨_, ready_atHeader _ _ _, rfl, by decide⟩, _, ready_atHeader _ _ _, rfl, by decide⟩

theorem witness_RequesterTakesTheHead :
    ({ ready [] [] with inputs := [.takeResponse], rq := [1#32, 2#32] } : State).inputs = [.takeResponse]
      ∧ ({ ready [] [] with inputs := [.takeResponse], rq := [1#32, 2#32] } : State).rq = 1#32 :: [2#32]
      ∧ ({ ready [] [] with inputs := [.takeResponse] } : State).rq = [] := ⟨rfl, rfl, rfl⟩

/-- No word presented; the queue full; an access that the store keeps waiting; reset asserted. -/
theorem witness_PsbHoldsWithoutChange :
    ((ready [] []).phase = .idle ∧ (ready [] []).outstanding = none ∧ (ready [] []).cmdIn = [])
      ∧ ((stalled none []).outstanding ≠ none ∧ (stalled none []).storeStalls = true)
      ∧ Config.rspDepth ≤ ({ ready [0#32] [] with rq := List.replicate Config.rspDepth 0#32 } : State).rq.length
      ∧ ({ ready [0#32] [] with rst := true } : State).rst = true := by
  refine ⟨⟨rfl, rfl, rfl⟩, ⟨by decide, rfl⟩, ?_, rfl⟩
  simp

theorem witness_StalledAccessIsOutstanding :
    let s : State := { ready [0x5001050A#32, 0xA5#32] [] with storeStalls := true }
    s.storeStalls = true ∧ firstAccess (.readStripe 3#7 7#3) = some (.readStripe 3#7 7#3) ∧ 0 < (1#8).toNat
      ∧ s.cmdIn.tail ≠ [] := by decide

/-- Nothing outstanding, and each kind of access. -/
theorem witness_StoreCompletesTheAccess :
    (({ ready [] [] with inputs := [.storeCompletes] } : State).inputs = .storeCompletes :: []
        ∧ ({ ready [] [] with inputs := [.storeCompletes] } : State).outstanding = none)
      ∧ ∀ a, (stalled (some a) [.storeCompletes]).inputs = .storeCompletes :: []
        ∧ (stalled (some a) [.storeCompletes]).outstanding = some a := ⟨⟨rfl, rfl⟩, fun _ => ⟨rfl, rfl⟩⟩

/-- A turn that the store keeps waiting and one that it does not; a completion that ends its command and one that does
not. -/
theorem witness_StallMakesNoDifference :
    (∃ t, ({ ready [0x30000703#32] [] with storeStalls := true } : State).psbStep = .next t ∧ t.inCommand = true)
      ∧ (∃ t, ({ ready [0x60000000#32] [] with storeStalls := true } : State).psbStep = .next t ∧ t.inCommand = false)
      ∧ (∃ t, step (stalled none [.storeCompletes]) = .next t ∧ t.inCommand = false)
      ∧ (∃ t, step (stalled (some (.pixelRead 3#7 56#6 true)) [.storeCompletes]) = .next t ∧ t.inCommand = true)
      ∧ (stalled none [.storeCompletes]).rst = false ∧ (stalled none [.storeCompletes]).outstanding ≠ none :=
  ⟨⟨_, rfl, by decide⟩, ⟨_, rfl, by decide⟩, ⟨_, rfl, by decide⟩, ⟨_, rfl, by decide⟩, rfl, by decide⟩

/-- In mid-command. -/
theorem witness_PresentedWordGoesToTheTail :
    (stalled none [.presentWord 0x60000000#32]).inputs = .presentWord 0x60000000#32 :: [] := rfl

theorem witness_StoreLevelMoves : (stalled none [.storeStalls]).inputs = .storeStalls :: []
    ∧ (stalled none [.storeAnswers]).inputs = .storeAnswers :: [] := ⟨rfl, rfl⟩

/-- An idle state, and one that holds in a DRAW_SPRITE. -/
theorem witness_EveryStepKeepsTheInvariant :
    (ready [0x40A50703#32] [(31, 0x00#8)]).Inv ∧ (∃ t, step (ready [0x40A50703#32] [(31, 0x00#8)]) = .next t)
      ∧ (holding true [0xFF#32]).Inv ∧ ∃ t, step (holding true [0xFF#32]) = .next t :=
  ⟨ready_inv _ (by decide), ⟨_, rfl⟩,
    ⟨⟨.nil, nofun⟩, Nat.zero_le _, fun _ => by decide, fun _ => nofun, nofun, fun _ _ => rfl, nofun⟩, _, rfl⟩

/-- A turn of PSB, and a completion by the stripe store. -/
theorem witness_TraceExplainsTheFramebuffer :
    (∃ t, step (ready [0x10011305#32] [(42, 0x00#8)]) = .next t ∧ t.trace.length = 2)
      ∧ (∀ c st v later, (ready [0x10011305#32] [(42, 0x00#8)]).inputs ≠ .otherWrite c st v :: later)
      ∧ (∃ t, step (stalled none [.storeCompletes]) = .next t ∧ t.trace.length = 1)
      ∧ ∀ c st v later, (stalled none [.storeCompletes]).inputs ≠ .otherWrite c st v :: later :=
  ⟨⟨_, rfl, by decide⟩, nofun, ⟨_, rfl, by decide⟩, nofun⟩

/-- A reset asked for before anything happens, and after the first event of a command. -/
theorem witness_ResetEntersItsState :
    ({ ready [0x10011305#32] [] with inputs := [.assertReset 0 0] } : State).inputs = .assertReset 0 0 :: []
      ∧ ({ ready [0x10011305#32] [] with inputs := [.assertReset 1 1] } : State).inputs = .assertReset 1 1 :: [] :=
  ⟨rfl, rfl⟩

theorem witness_AbortLeavesAPrefix :
    let s : State := { ready [0x10011305#32] [(42, 0x00#8)] with inputs := [.assertReset 1 1] }
    s.inputs = .assertReset 1 1 :: [] ∧ ∃ u, ({ s with storeStalls := false } : State).psbStep = .next u
      ∧ (newEvents s u).length = 2 :=
  ⟨rfl, _, rfl, by decide⟩

/-- No event, one, and all of them. -/
theorem witness_EveryPrefixIsAdmitted :
    let s := ready [0x10011305#32] [(42, 0x00#8)]
    ∃ u, ({ s with storeStalls := false } : State).psbStep = .next u ∧ 0 ≤ (newEvents s u).length ∧ 1 ≤ (newEvents s u).length
      ∧ 2 ≤ (newEvents s u).length := ⟨_, rfl, by decide, by decide, by decide⟩

/-- A safe move of PSB, and a safe reset of a command that sets no flag. -/
theorem witness_SafeMovesSetNoFlag :
    (∃ t, step (ready [0x40A50703#32] []) = .next t ∧ safeMove (ready [0x40A50703#32] []) t = true)
      ∧ (∃ t u, step { ready [0x40A50703#32] [] with inputs := [.assertReset 1 1] } = .next t
        ∧ safeMove { ready [0x40A50703#32] [] with inputs := [.assertReset 1 1] } t = true
        ∧ ({ ready [0x40A50703#32] [] with
            inputs := [.assertReset 1 1], storeStalls := false, cmdIn := [0x40A50703#32].take 1 } : State).psbStep
          = .next u) := by
  exact ⟨⟨_, rfl, by decide⟩, _, _, rfl, by decide, rfl⟩

/-- U2, R72: OOR of a DRAW_SPRITE that a reset cuts off makes the move unsafe, although reset clears it. -/
theorem test_safeMove_aborted_oor :
    let s : State := { ready [0x50033C7E#32, 0x00FF8101#32] [(1015, 0x00#8), (1023, 0x00#8)] with
      inputs := [.assertReset 16 2] }
    (after s).status = ⟨false, false⟩ ∧ safeMove s (after s) = false := by decide

theorem witness_FirstWordAfterResetIsAHeader :
    let s : State := { ready [0xFF#32] [] with rst := true, inputs := [.releaseReset] }
    s.Inv ∧ s.rst = true ∧ s.inputs = [.releaseReset] ∧ s.cmdIn = 0xFF#32 :: [] :=
  ⟨⟨⟨.nil, nofun⟩, Nat.zero_le _, nofun, nofun, nofun, nofun, fun _ => ⟨rfl, rfl, rfl, rfl, rfl⟩⟩, rfl, rfl, rfl⟩

theorem witness_OtherWriterOnlyWhileIdle :
    let input := Input.otherWrite 127#7 7#3 0xA5#8
    ({ ready [] [] with inputs := [input] } : State).inputs = input :: []
      ∧ ({ ready [] [] with inputs := [input] } : State).phase = .idle
      ∧ ({ ready [] [] with inputs := [input] } : State).outstanding = none
      ∧ (stalled none [input]).inputs = input :: [] ∧ (stalled none [input]).outstanding ≠ none
      ∧ ({ holding false [] with inputs := [input] } : State).inputs = input :: []
      ∧ ({ holding false [] with inputs := [input] } : State).phase = .blit :=
  ⟨rfl, rfl, rfl, rfl, nofun, rfl, rfl⟩

/-- READ_STATUS, and a command that is not READ_STATUS. -/
theorem witness_FlagsDoNotAffectDrawing :
    (∃ t t', (ready [0x60000000#32] []).psbStep = .next t
        ∧ ({ ready [0x60000000#32] [] with status := ⟨true, true⟩ } : State).psbStep = .next t')
      ∧ (∃ t t', (ready [0x40A50703#32] []).psbStep = .next t
        ∧ ({ ready [0x40A50703#32] [] with status := ⟨true, true⟩ } : State).psbStep = .next t')
      ∧ ∀ rest, (ready [0x40A50703#32] []).cmdIn ≠ 0x60000000#32 :: rest := by
  refine ⟨⟨_, _, rfl, rfl⟩, ⟨_, _, rfl, rfl⟩, ?_⟩
  intro rest h
  simp [ready] at h

theorem witness_FramebufferNeverChangesTheCommands :
    ∃ t t', (ready [0x10011305#32] []).psbStep = .next t
      ∧ ({ ready [0x10011305#32] [] with fb := [(42, 0xFF#8)] } : State).psbStep = .next t' := ⟨_, _, rfl, rfl⟩

end Sys2Proof.Tests
end

section
/-! Pixel address arithmetic (R64): the family '00_scope.md'. -/

namespace Sys2Proof.Machine

/-- The mask of R64 is the power of two: the shift by at most 7 loses no bit of a byte. -/
theorem bitMask_toNat (b : BitVec 3) : (bitMask b).toNat = 2 ^ b.toNat :=
  BitVec.toNat_twoPow_of_lt b.isLt

/-- Settles O11: the stripe and the bit of a row are its quotient and remainder by 8, the mask is the bit's power of two,
and a pixel write's two events are at the pixel's own column. -/
theorem pixelAddressArithmetic : Obligations.PixelAddressArithmetic := by
  intro y
  refine ⟨pixelStripe_toNat y, pixelBit_toNat y, ?mask, ?oneBit, ?column⟩
  case mask => rw [bitMask_toNat, pixelBit_toNat]
  case oneBit =>
    intro k hk
    rw [bitMask_getLsbD _ hk, decide_eq_true_iff, pixelBit_toNat]
  case column =>
    intro s x v
    exact ⟨_, _, pixelWrite_trace s x y v⟩

end Sys2Proof.Machine
end

section
/-! Facts about the operands, the responses and the decoder that the statements of the family '10_state.md' rest on: the
stripe and the bit of a row by division, responses as numbers, and which headers decode to which commands. -/

namespace Sys2Proof.Machine

open Claims

/-! The two views (R15, R28, R64). -/

theorem rowStripe_eq_pixelStripe (y : Row) : rowStripe y = pixelStripe y := by
  apply BitVec.eq_of_toNat_eq
  have hy := y.isLt
  rw [rowStripe, BitVec.toNat_ofNat, pixelStripe_toNat]
  omega

theorem stripeRow_toNat (st : StripeIx) {b : Nat} (hb : b < 8) : (stripeRow st b).toNat = 8 * st.toNat + b := by
  have hst := st.isLt
  rw [stripeRow, BitVec.toNat_ofNat]
  omega

theorem pixelStripe_stripeRow (st : StripeIx) {b : Nat} (hb : b < 8) : pixelStripe (stripeRow st b) = st := by
  apply BitVec.eq_of_toNat_eq
  rw [pixelStripe_toNat, stripeRow_toNat st hb]
  omega

theorem pixelBit_stripeRow (st : StripeIx) {b : Nat} (hb : b < 8) : (pixelBit (stripeRow st b)).toNat = b := by
  rw [pixelBit_toNat, stripeRow_toNat st hb]
  omega

/-- A bit of a stripe is a pixel (R15, R28). -/
theorem stripe_getLsbD_eq_pixel (s : State) (c : Column) (st : StripeIx) {b : Nat} (hb : b < 8) :
    (s.stripe c st).getLsbD b = s.pixel c (stripeRow st b) := by
  rw [State.pixel, pixelStripe_stripeRow st hb, pixelBit_stripeRow st hb]

/-- A pixel is the bit of its row's remainder in the stripe of its row's quotient (R15, R64). -/
theorem pixel_eq_stripe_getLsbD (s : State) (x : Column) (y : Row) :
    s.pixel x y = (s.stripe x (rowStripe y)).getLsbD (y.toNat % 8) := by
  rw [State.pixel, rowStripe_eq_pixelStripe, pixelBit_toNat]

/-- Settles O12: a row is eight times its stripe and its bit. -/
theorem pixelViewOfStripes : Obligations.PixelViewOfStripes := fun s =>
  ⟨pixel_eq_stripe_getLsbD s, fun c st _ hb => stripe_getLsbD_eq_pixel s c st hb⟩

/-! Response words (R16, R52). -/

theorem byteResponse_eq_ofNat (v : Byte) : byteResponse v = BitVec.ofNat 32 v.toNat := by
  apply BitVec.eq_of_toNat_eq
  rw [byteResponse, BitVec.toNat_setWidth, BitVec.toNat_ofNat]

theorem byteResponse_getLsbD (v : Byte) {b : Nat} (hb : b < 8) : (byteResponse v).getLsbD b = v.getLsbD b := by
  have h : b < 32 := by omega
  simp [byteResponse, h]

theorem pixelResponse_eq_ite (v : Bool) : pixelResponse v = if v then 1#32 else 0#32 := by
  cases v <;> rfl

/-- Settles O36: the two flags stand in bits 0 and 1, and each is a word of one bit. -/
theorem statusWordLayout : Obligations.StatusWordLayout := by
  intro f
  refine ⟨?ill, ?oor, ?zero⟩
  case ill => simp [Status.word]
  case oor => simp [Status.word]
  case zero =>
    intro k hk
    have h0 : k ≠ 0 := by omega
    have h1 : k - 1 ≠ 0 := by omega
    simp [Status.word, h0, h1]

/-! The decoder (R50, R51). -/

theorem fieldOp_toNat (cw : Word) : (fieldOp cw).toNat = cw.toNat / 2 ^ 28 := by
  have h := cw.isLt
  rw [fieldOp, BitVec.extractLsb'_toNat, Nat.shiftRight_eq_div_pow]
  omega

theorem fieldOp_eq_five_iff (cw : Word) : fieldOp cw = 5#4 ↔ cw.toNat / 2 ^ 28 = 5 := by
  rw [← BitVec.toNat_inj, fieldOp_toNat]
  rfl

theorem fieldData_toNat (cw : Word) : (fieldData cw).toNat = cw.toNat / 2 ^ 16 % 256 := by
  rw [fieldData, BitVec.extractLsb'_toNat, Nat.shiftRight_eq_div_pow]

/-- The words a DRAW_SPRITE header calls for, read from the header as a number (R48, R51). -/
theorem spritePayloadWords_fieldData (cw : Word) :
    spritePayloadWords (fieldData cw) = (cw.toNat / 2 ^ 16 % 256 + 3) / 4 := by
  rw [spritePayloadWords, fieldData_toNat]

theorem decode_of_op_five {cw : Word} (h : fieldOp cw = 5#4) :
    decode cw = if rowDrawSprite.accepts cw then .ok (.drawSprite (fieldX cw) (fieldY cw) (fieldData cw))
      else .error (.illegalBlit (fieldData cw)) := by
  simp [decode, h]

/-- A header of opcode 5 with a reserved bit set is an illegal blit (R53, R78). -/
theorem decode_of_illegal_blit {cw : Word} (hop : cw.toNat / 2 ^ 28 = 5)
    (hbad : cw &&& 0xFF00C080#32 ≠ 0x50000000#32) : decode cw = .error (.illegalBlit (fieldData cw)) := by
  have hrow : rowDrawSprite.accepts cw = false := beq_eq_false_iff_ne.mpr hbad
  rw [decode_of_op_five ((fieldOp_eq_five_iff cw).mpr hop), hrow]
  rfl

/-- Only opcode 5 draws a sprite or discards one's payload (R50, R53). -/
theorem decode_of_op_ne_five {cw : Word} (h : fieldOp cw ≠ 5#4) :
    (∀ x0 y0 w, decode cw ≠ .ok (.drawSprite x0 y0 w)) ∧ ∀ w, decode cw ≠ .error (.illegalBlit w) := by
  simp only [decode, h, if_false]
  repeat' split
  all_goals exact ⟨nofun, nofun⟩

/-- A header that decodes to a command is accepted by the command's row (R50). -/
theorem accepts_of_decode {cw : Word} {i : Instr} (h : decode cw = .ok i) : i.row.accepts cw = true := by
  simp only [decode] at h
  repeat' split at h
  all_goals cases h
  all_goals assumption

/-- A row whose mask is all ones accepts one word only (R49, R50). -/
theorem eq_pattern_of_accepts {r : OpcodeRow} {cw : Word} (hmask : r.mask = BitVec.allOnes 32)
    (h : r.accepts cw = true) : cw = r.pattern := by
  rw [OpcodeRow.accepts, hmask, BitVec.and_allOnes] at h
  exact beq_iff_eq.mp h

theorem eq_of_decode_readStatus {cw : Word} (h : decode cw = .ok .readStatus) : cw = 0x60000000#32 :=
  eq_pattern_of_accepts (r := rowReadStatus) (by decide) (accepts_of_decode h)

theorem eq_of_decode_clearStatus {cw : Word} (h : decode cw = .ok .clearStatus) : cw = 0x70000000#32 :=
  eq_pattern_of_accepts (r := rowClearStatus) (by decide) (accepts_of_decode h)

end Sys2Proof.Machine
end

section
/-! Turns and moves, one equation for each: what PSB does when it holds, goes on with a sprite or is at a header, and what
the other agents' moves do (R5, R11, R12, R13, R97). -/

namespace Sys2Proof.Machine

open Claims

/-! PSB's own turn. -/

theorem step_of_no_inputs {s : State} (h : s.inputs = []) : step s = s.psbStep := by
  simp [step, State.agentStep, h]

theorem step_of_input {s : State} {input : Input} {later : List Input} (h : s.inputs = input :: later) :
    step s = s.inputStep later input := by
  simp [step, State.agentStep, h]

theorem psbStep_of_rst {s : State} (hr : s.rst = true) : s.psbStep = .next s := by
  simp [State.psbStep, hr]

theorem psbStep_of_outstanding {s : State} {a : PendingAccess} (hr : s.rst = false) (ho : s.outstanding = some a) :
    s.psbStep = .next (if s.storeStalls then s else s.finishAccess a) := by
  simp [State.psbStep, hr, ho]

theorem psbStep_of_blit {s : State} (hr : s.rst = false) (ho : s.outstanding = none) (hp : s.phase = .blit) :
    s.psbStep = .next s.blitRun := by
  simp [State.psbStep, hr, ho, hp]

theorem psbStep_of_no_word {s : State} (hr : s.rst = false) (hp : s.phase = .idle) (ho : s.outstanding = none)
    (hc : s.cmdIn = []) : s.psbStep = .next s := by
  simp [State.psbStep, hr, hp, ho, hc]

theorem psbStep_of_full {s : State} (hr : s.rst = false) (hp : s.phase = .idle) (ho : s.outstanding = none)
    (hq : Config.rspDepth ≤ s.rq.length) : s.psbStep = .next s := by
  have hroom : s.rqHasRoom = false := by
    rw [Bool.eq_false_iff, Ne, rqHasRoom_iff]
    omega
  simp [State.psbStep, hr, hp, ho, hroom]

theorem psbStep_of_header {s : State} {cw : Word} {rest : List Word} (hr : s.rst = false) (hp : s.phase = .idle)
    (ho : s.outstanding = none) (hq : s.rq.length < Config.rspDepth) (hc : s.cmdIn = cw :: rest) :
    s.psbStep = s.runHeader cw := by
  have hroom := (rqHasRoom_iff s).mpr hq
  simp [State.psbStep, hr, hp, ho, hroom, hc]

theorem runHeader_of_ok {cw : Word} {i : Instr} (h : decode cw = .ok i) (s : State) :
    s.runHeader cw = exec i s := by
  simp [State.runHeader, h]

theorem runHeader_of_error {cw : Word} {why : Reject} (h : decode cw = .error why) (s : State) :
    s.runHeader cw = .next (s.illegalHeader cw why) := by
  simp [State.runHeader, h]

theorem step_of_atHeader {s : State} {cw : Word} {rest : List Word} (h : AtHeader s cw rest) :
    step s = s.runHeader cw := by
  obtain ⟨hi, hr, hp, ho, hq, hc⟩ := h
  rw [step_of_no_inputs hi, psbStep_of_header hr hp ho hq hc]

/-- Settles O31: at a header both the free turn and the scheduled one are the header's run. -/
theorem stepRunsTheDecodedCommand : Obligations.StepRunsTheDecodedCommand := by
  intro s cw rest i h hd
  refine ⟨by rw [step_of_atHeader h, runHeader_of_ok hd], fun later => ?_⟩
  obtain ⟨-, hr, hp, ho, hq, hc⟩ := h
  calc step { s with inputs := .psbTurn :: later }
      = ({ s with inputs := later } : State).psbStep := by
        rw [step_of_input rfl]
        rfl
    _ = ({ s with inputs := later } : State).runHeader cw := psbStep_of_header hr hp ho hq hc
    _ = exec i { s with inputs := later } := runHeader_of_ok hd _

/-- Settles O39: each wait of R108, and reset, is a turn that answers the same state. -/
theorem psbHoldsWithoutChange : Obligations.PsbHoldsWithoutChange := by
  intro s
  cases hr : s.rst with
  | true => simp [psbStep_of_rst hr]
  | false =>
    refine ⟨psbStep_of_no_word hr, psbStep_of_full hr, fun ho hs => ?_, nofun⟩
    obtain ⟨a, ha⟩ := Option.ne_none_iff_exists'.mp ho
    rw [psbStep_of_outstanding hr ha, if_pos hs]

/-- Settles O34: every operation of a turn leaves the count and the stream alone, but the taking of a presented word. -/
theorem commandPointerCountsWordsTaken : Obligations.CommandPointerCountsWordsTaken := by
  intro s t ht
  refine psbStep_keeps (P := fun u => s.cp ≤ u.cp ∧ u.cp - s.cp ≤ s.cmdIn.length ∧ u.cmdIn = s.cmdIn.drop (u.cp - s.cp))
    ?take ?_ ?_ ?_ ?_ ?_ ?_ ?_ ht ⟨Nat.le_refl _, by simp, by simp⟩
  case take =>
    rintro u ⟨hle, hlen, hdrop⟩ hne
    have hlt : u.cp - s.cp < s.cmdIn.length := by simpa [hdrop] using hne
    have hcp : u.cp + 1 - s.cp = u.cp - s.cp + 1 := by omega
    simp only [takeWord_cp, takeWord_cmdIn, hcp, hdrop, List.tail_drop]
    exact ⟨by omega, by omega, trivial⟩
  all_goals
    intros
    assumption

/-! The moves of the requester (R11, R12). -/

/-- Settles O38: the move is due until RQ has a word, and PSB's turn comes meanwhile. -/
theorem requesterTakesTheHead : Obligations.RequesterTakesTheHead := by
  intro s later hi
  constructor
  · intro v rest hq
    simp [step_of_input hi, State.inputStep, hq, State.deliver]
  · intro hq
    simp [step_of_input hi, State.inputStep, hq]

/-- Settles O43: the word is appended and the move is off the schedule. -/
theorem presentedWordGoesToTheTail : Obligations.PresentedWordGoesToTheTail :=
  fun _ _ _ hi => step_of_input hi

/-! Reset (R23, R97, R98). -/

/-- Settles O48: no stripe is listed after power-up, so each reads as its byte of FB_INIT. -/
theorem stateAfterReset : Obligations.StateAfterReset := ⟨rfl, rfl, rfl, rfl, fun _ _ => rfl⟩

/-- Settles O45: right after reset PSB is idle with nothing outstanding, so only the memory and the queue have to be
looked at. -/
theorem invariantAfterReset : Obligations.InvariantAfterReset where
  memory := reset_memory_wf
  queue := Nat.zero_le _
  position := nofun
  pixel := nofun
  room := nofun
  discarding := nofun
  inReset := nofun

/-- Settles O49: reset is entered from what the cut-off turn leaves, which is nothing of the framebuffer and the trace
when it got through no event, and no word when it got none. -/
theorem resetEntersItsState : Obligations.ResetEntersItsState := by
  intro s e k later hi
  refine ⟨_, step_of_input hi, rfl, rfl, rfl, rfl, rfl, rfl, rfl, rfl, ?noEvent, ?noWord⟩
  case noEvent =>
    rintro rfl
    simp [State.abortedTurn, Memory.replay]
  case noWord =>
    rintro rfl
    simp [State.abortedTurn]

/-! The commands where the stripe store answers at once, and where it does not (R62, R63, R65, R66, R108). -/

theorem exec_setPixel {s : State} (h : StoreAnswers s) (x : Column) (y : Row) (v : Bool) :
    exec (.setPixel x y v) s = .next (s.pixelWrite x y v).takeWord := by
  rw [StoreAnswers] at h
  simp [exec, execSetPixel, h]

theorem exec_getPixel {s : State} (h : StoreAnswers s) (x : Column) (y : Row) :
    exec (.getPixel x y) s = .next (s.answerPixel x y).takeWord := by
  rw [StoreAnswers] at h
  simp [exec, execGetPixel, h]

theorem exec_readStripe {s : State} (h : StoreAnswers s) (c : Column) (st : StripeIx) :
    exec (.readStripe c st) s = .next (s.answerStripe c st).takeWord := by
  rw [StoreAnswers] at h
  simp [exec, execReadStripe, h]

theorem exec_writeStripe {s : State} (h : StoreAnswers s) (c : Column) (st : StripeIx) (v : Byte) :
    exec (.writeStripe c st v) s = .next (s.stripeWrite c st v).takeWord := by
  rw [StoreAnswers] at h
  simp [exec, execWriteStripe, h]

theorem exec_stalled {s : State} {i : Instr} {a : PendingAccess} (hs : s.storeStalls = true)
    (ha : firstAccess i = some a) : exec i s = .next (s.takeWord.await a) := by
  cases i <;> cases ha <;> simp [exec, execSetPixel, execGetPixel, execReadStripe, execWriteStripe, hs]

/-- A response is queued by the three read commands and by nothing else (R12, R52, R53). -/
theorem exec_rq {s t : State} (h : StoreAnswers s) {i : Instr} (ht : exec i s = .next t) :
    ((∃ x y, i = .getPixel x y) ∨ (∃ c st, i = .readStripe c st) ∨ i = .readStatus → ∃ v, t.rq = s.rq ++ [v])
      ∧ ((∀ x y, i ≠ .getPixel x y) → (∀ c st, i ≠ .readStripe c st) → i ≠ .readStatus → t.rq = s.rq) := by
  cases i with
  | setPixel x y v =>
    rw [exec_setPixel h] at ht
    cases ht
    simp
  | getPixel x y =>
    rw [exec_getPixel h] at ht
    cases ht
    simp
  | readStripe c st =>
    rw [exec_readStripe h] at ht
    cases ht
    simp
  | writeStripe c st v =>
    rw [exec_writeStripe h] at ht
    cases ht
    simp
  | drawSprite x0 y0 w =>
    cases ht
    simp [State.blitRun, blitLoop_frame]
  | readStatus =>
    cases ht
    simp
  | clearStatus =>
    cases ht
    simp

theorem illegalHeader_rq (s : State) (cw : Word) (why : Reject) : (s.illegalHeader cw why).rq = s.rq := by
  rcases illegalHeader_cases s cw why with ⟨-, e⟩ | ⟨w, -, e⟩
  · rw [e]
    rfl
  · rw [e, State.blitRun, (blitLoop_frame _ _).1]
    rfl

/-- Settles O37: a legal header queues what its command queues, an illegal one nothing. -/
theorem responsesAreQueuedInOrder : Obligations.ResponsesAreQueuedInOrder := by
  intro s t cw rest hs h ht
  rw [step_of_atHeader h] at ht
  cases hd : decode cw with
  | ok i =>
    rw [runHeader_of_ok hd] at ht
    simpa using exec_rq hs ht
  | error why =>
    rw [runHeader_of_error hd] at ht
    cases ht
    simp [illegalHeader_rq]

/-! The completion of an access by the stripe store (R13, R34, R61, R108). -/

theorem pixelDone_of_idle {s : State} (h : s.phase = .idle) : s.pixelDone = s.settle := by
  simp [State.pixelDone, h]

theorem pixelDone_of_blit {s : State} (h : s.phase = .blit) : s.pixelDone = s.settle.nextPixel := by
  simp [State.pixelDone, h]

theorem pixelDone_fb (s : State) : s.pixelDone.fb = s.fb := by
  cases h : s.phase with
  | idle => rw [pixelDone_of_idle h, settle_fb]
  | blit => rw [pixelDone_of_blit h, nextPixel_fb, settle_fb]

/-- Once a pixel's write has completed nothing is outstanding, and no field but the sequencer's own is touched. -/
theorem pixelDone_frame (s : State) : { s.pixelDone with seq := s.seq } = s.settle := by
  cases h : s.phase with
  | idle =>
    rw [pixelDone_of_idle h]
    rfl
  | blit =>
    rw [pixelDone_of_blit h]
    rfl

theorem pixelDone_seq_of_idle {s : State} (h : s.phase = .idle) : s.pixelDone.seq = s.seq := by
  rw [pixelDone_of_idle h, settle_seq]

theorem pixelDone_seq_of_blit {s : State} (h : s.phase = .blit) : s.pixelDone.seq = s.nextPixel.seq := by
  rw [pixelDone_of_blit h]
  rfl

theorem step_of_storeCompletes {s : State} {later : List Input} {a : PendingAccess}
    (hi : s.inputs = .storeCompletes :: later) (ho : s.outstanding = some a) :
    step s = .next (({ s with inputs := later } : State).completeAccess a) := by
  simp [step_of_input hi, State.inputStep, ho]

/-- Settles O41: the completion of each kind of access is its read or its write, recorded, and what the command does
with it. -/
theorem storeCompletesTheAccess : Obligations.StoreCompletesTheAccess := by
  intro s later hi
  refine ⟨fun ho => ?nothing, fun c st ho => ?readStripe, fun x y ho => ?getPixel, fun c st v ho => ?writeStripe,
    fun x y v ho => ?pixelRead, fun x y v ho => ?pixelWrite⟩
  case nothing => simp [step_of_input hi, State.inputStep, ho]
  case readStripe =>
    rw [step_of_storeCompletes hi ho, ← byteResponse_eq_ofNat]
    rfl
  case getPixel =>
    rw [step_of_storeCompletes hi ho, ← pixelResponse_eq_ite, ← pixel_eq_stripe_getLsbD, rowStripe_eq_pixelStripe]
    rfl
  case writeStripe => exact ⟨_, step_of_storeCompletes hi ho, fun c' st' => stripe_setStripe _ _ _ _ _ _, rfl⟩
  case pixelRead =>
    rw [step_of_storeCompletes hi ho, rowStripe_eq_pixelStripe]
    rfl
  case pixelWrite =>
    rw [rowStripe_eq_pixelStripe]
    have frame := pixelDone_frame (({ s with inputs := later } : State).pixelStore x y v)
    refine ⟨_, withBit s.seq.rmw (pixelBit y) v, step_of_storeCompletes hi ho, fun k hk => ?bits, fun c' st' => ?stripes,
      congrArg (fun t => { t with fb := s.fb }) frame, fun hp => pixelDone_seq_of_idle (by exact hp),
      fun hp => pixelDone_seq_of_blit (by exact hp)⟩
    case bits => rw [withBit_getLsbD _ _ _ hk, pixelBit_toNat]
    case stripes =>
      rw [stripe_eq, State.completeAccess, pixelDone_fb]
      exact stripe_setStripe _ _ _ _ _ _

end Sys2Proof.Machine
end

section
/-! The sequencer pixel by pixel (R22, R69, R77): where the stripe store answers, or no pixel makes an access, a run of
the sequencer is one step for each pixel. `Progress` says what has become of the state after the first pixels, and from it
come the two ways a run from column 0 ends: with its whole payload, and holding for the word that is missing. -/

namespace Sys2Proof.Machine

open Claims

/-- The payload word that is due has been taken (R69). -/
def State.loaded (s : State) : State := if s.payloadDue then s.takePayload (s.cmdIn.headD 0#32) else s

/-- One pixel of the sequencer that the stripe store does not keep waiting. -/
def State.pixelStep (s : State) : State := s.loaded.drawPixel.nextPixel

/-- The sequencer `k` pixels further. -/
def State.afterPixels (s : State) (k : Nat) : State := State.pixelStep^[k] s

theorem afterPixels_succ (s : State) (k : Nat) : s.afterPixels (k + 1) = (s.afterPixels k).pixelStep :=
  Function.iterate_succ_apply' _ _ _

/-- No pixel of the sequencer waits: the stripe store answers, or the pixels are suppressed (R78, R108). -/
def State.Unstalled (s : State) : Prop := s.storeStalls = false ∨ s.seq.bill = true

theorem Latches.pixelsLeft_eq (q : Latches) : q.pixelsLeft = 8 * q.bw.toNat - q.position := rfl

theorem position_column (q : Latches) : q.bi.toNat = q.position / 8 := by
  have := q.bj.isLt
  rw [Latches.position]
  omega

theorem position_row (q : Latches) : q.bj.toNat = q.position % 8 := by
  have := q.bj.isLt
  rw [Latches.position]
  omega

/-- The pixel under way is on the screen (R72). -/
def Latches.OnScreen (q : Latches) : Prop := q.bx0.toNat + q.bi.toNat < 128 ∧ q.by0.toNat + q.bj.toNat < 64

theorem drawPixel_of_bill {s : State} (hb : s.seq.bill = true) : s.drawPixel = s := by
  simp [State.drawPixel, hb]

theorem drawPixel_of_onScreen {s : State} (hb : s.seq.bill = false) (h : s.seq.OnScreen) :
    s.drawPixel = s.pixelWrite (BitVec.ofNat 7 (s.seq.bx0.toNat + s.seq.bi.toNat))
      (BitVec.ofNat 6 (s.seq.by0.toNat + s.seq.bj.toNat)) s.seq.pixelValue := by
  rcases drawPixel_cases s with ⟨hb', -⟩ | ⟨-, -, -, e⟩ | ⟨-, hoff, -⟩
  · exact absurd (hb'.symm.trans hb) nofun
  · exact e
  · exact absurd h hoff

theorem drawPixel_of_offScreen {s : State} (hb : s.seq.bill = false) (h : ¬s.seq.OnScreen) :
    s.drawPixel = s.raiseOor := by
  rcases drawPixel_cases s with ⟨hb', -⟩ | ⟨-, hx, hy, -⟩ | ⟨-, -, e⟩
  · exact absurd (hb'.symm.trans hb) nofun
  · exact absurd ⟨hx, hy⟩ h
  · exact e

theorem drawPixel_cmdIn (s : State) : s.drawPixel.cmdIn = s.cmdIn := (congrArg State.cmdIn (drawPixel_frame s).1 :)
theorem drawPixel_cp (s : State) : s.drawPixel.cp = s.cp := (congrArg State.cp (drawPixel_frame s).1 :)
theorem drawPixel_pay (s : State) : s.drawPixel.seq.pay = s.seq.pay :=
  (congrArg Latches.pay (drawPixel_frame s).2.2 :)

/-! The loop in terms of pixel steps. -/

theorem loaded_of_due {s : State} (h : s.payloadDue = true) : s.loaded = s.takePayload (s.cmdIn.headD 0#32) := by
  simp [State.loaded, h]

theorem loaded_of_not_due {s : State} (h : s.payloadDue = false) : s.loaded = s := by
  simp [State.loaded, h]

/-- Taking the word that is due leaves everything alone but the stream, its count and the latch `pay`. -/
theorem loaded_frame (s : State) : { s.loaded with seq := s.seq, cp := s.cp, cmdIn := s.cmdIn } = s
    ∧ { s.loaded.seq with pay := s.seq.pay } = s.seq := by
  rw [State.loaded]
  split <;> exact ⟨rfl, rfl⟩

theorem pixelStalls_of_unstalled {s : State} (h : s.Unstalled) : s.pixelStalls = false := by
  rw [Bool.eq_false_iff, Ne, pixelStalls_iff]
  rintro ⟨hs, hb, -⟩
  rcases h with h | h
  · exact absurd (hs.symm.trans h) nofun
  · exact absurd (h.symm.trans hb) nofun

section
variable {s : State} {w : Word} {rest : List Word}

/-- The sequencer holds before a column whose payload word has not been presented (R77). -/
theorem blitLoop_hold (hd : s.payloadDue = true) (hc : s.cmdIn = []) (n : Nat) : blitLoop (n + 1) s = s := by
  simp [blitLoop, hd, hc]

theorem blitLoop_load (hd : s.payloadDue = true) (hc : s.cmdIn = w :: rest)
    (hw : (s.takePayload w).pixelStalls = false) (n : Nat) :
    blitLoop (n + 1) s = blitLoop n (s.takePayload w).drawPixel.nextPixel := by
  simp [blitLoop, hd, hc, hw]

theorem blitLoop_draw (hd : s.payloadDue = false) (hw : s.pixelStalls = false) (n : Nat) :
    blitLoop (n + 1) s = blitLoop n s.drawPixel.nextPixel := by
  simp [blitLoop, hd, hw]

/-- The sequencer takes the word that is due and waits for the read of its pixel (R108). -/
theorem blitLoop_load_wait (hd : s.payloadDue = true) (hc : s.cmdIn = w :: rest)
    (hw : (s.takePayload w).pixelStalls = true) (n : Nat) : blitLoop (n + 1) s = (s.takePayload w).awaitPixel := by
  simp [blitLoop, hd, hc, hw]

theorem blitLoop_wait (hd : s.payloadDue = false) (hw : s.pixelStalls = true) (n : Nat) :
    blitLoop (n + 1) s = s.awaitPixel := by
  simp [blitLoop, hd, hw]

end

/-- The sequencer draws the pixel under way and goes on where it neither holds nor waits. -/
theorem blitLoop_step {s : State} (hu : s.Unstalled) (hc : s.payloadDue = true → s.cmdIn ≠ []) (n : Nat) :
    blitLoop (n + 1) s = blitLoop n s.pixelStep := by
  cases hd : s.payloadDue with
  | false => rw [blitLoop_draw hd (pixelStalls_of_unstalled hu), State.pixelStep, loaded_of_not_due hd]
  | true =>
    obtain ⟨w, rest, hw⟩ := List.exists_cons_of_ne_nil (hc hd)
    rw [blitLoop_load hd hw (pixelStalls_of_unstalled (by exact hu)), State.pixelStep, loaded_of_due hd, hw,
      List.headD_cons]

/-! What the first pixels leave. -/

/-- The latches `q` with those that the sequencer changes on its way taken from `r`. -/
def Latches.withProgressOf (q r : Latches) : Latches := { q with bi := r.bi, bj := r.bj, pay := r.pay, rmw := r.rmw }

/-- The state `t` with the fields that the sequencer changes on its way taken from `s`. -/
def State.withEffectsOf (t s : State) : State :=
  { t with status := s.status, seq := s.seq, cp := s.cp, fb := s.fb, trace := s.trace, cmdIn := s.cmdIn }

/-- `t` is `s`, which stands at column 0 and row 0, `k` pixels further: where the sequencer is, the payload words it has
taken, the one it holds, and what it leaves alone. -/
structure Progress (s : State) (k : Nat) (t : State) : Prop where
  position : t.seq.position = k
  enough : (k + 31) / 32 ≤ s.cmdIn.length
  stream : t.cmdIn = s.cmdIn.drop ((k + 31) / 32)
  count : t.cp = s.cp + (k + 31) / 32
  payload : k % 32 ≠ 0 → t.seq.pay = s.cmdIn.getD (k / 32) 0#32
  header : t.seq.withProgressOf s.seq = s.seq
  frame : t.withEffectsOf s = s

namespace Progress

theorem start {s : State} (h : s.seq.position = 0) : Progress s 0 s :=
  ⟨h, Nat.zero_le _, rfl, rfl, nofun, rfl, rfl⟩

variable {s t : State} {k : Nat}

theorem bx0 (h : Progress s k t) : t.seq.bx0 = s.seq.bx0 := (congrArg Latches.bx0 h.header :)
theorem by0 (h : Progress s k t) : t.seq.by0 = s.seq.by0 := (congrArg Latches.by0 h.header :)
theorem bw (h : Progress s k t) : t.seq.bw = s.seq.bw := (congrArg Latches.bw h.header :)
theorem bill (h : Progress s k t) : t.seq.bill = s.seq.bill := (congrArg Latches.bill h.header :)

theorem pixelsLeft (h : Progress s k t) : t.seq.pixelsLeft = 8 * s.seq.bw.toNat - k := by
  rw [Latches.pixelsLeft_eq, h.position, h.bw]

theorem unstalled (h : Progress s k t) (hs : s.Unstalled) : t.Unstalled := by
  have hst : t.storeStalls = s.storeStalls := (congrArg State.storeStalls h.frame :)
  rwa [State.Unstalled, hst, h.bill]

theorem due_iff (h : Progress s k t) : t.payloadDue = true ↔ k % 32 = 0 := by
  rw [payloadDue_iff, h.position]

/-- A payload word is there where the next pixel calls for one. -/
theorem presented (h : Progress s k t) (hk : (k + 1 + 31) / 32 ≤ s.cmdIn.length) (hd : t.payloadDue = true) :
    t.cmdIn ≠ [] := by
  have := h.due_iff.mp hd
  rw [h.stream, Ne, List.drop_eq_nil_iff]
  omega

/-- The payload word in use at pixel `k` is word `k / 32` (R48, R69). -/
theorem loaded_pay (h : Progress s k t) : t.loaded.seq.pay = s.cmdIn.getD (k / 32) 0#32 := by
  cases hd : t.payloadDue with
  | true =>
    have hk := h.due_iff.mp hd
    have hm : (k + 31) / 32 = k / 32 := by omega
    rw [loaded_of_due hd, takePayload_seq, h.stream, hm]
    simp [List.headD_eq_head?_getD, List.getD_eq_getElem?_getD]
  | false =>
    rw [loaded_of_not_due hd]
    exact h.payload fun hk => by simp [h.due_iff.mpr hk] at hd

/-- The words taken, once the one that is due has been. -/
theorem loaded_words (h : Progress s k t) :
    t.loaded.cmdIn = s.cmdIn.drop ((k + 1 + 31) / 32) ∧ t.loaded.cp = s.cp + (k + 1 + 31) / 32 := by
  cases hd : t.payloadDue with
  | true =>
    have hk := h.due_iff.mp hd
    have hm : (k + 1 + 31) / 32 = (k + 31) / 32 + 1 := by omega
    rw [loaded_of_due hd, takePayload_cmdIn, takePayload_cp, h.stream, h.count, hm, List.tail_drop]
    exact ⟨rfl, Nat.add_assoc _ _ _⟩
  | false =>
    have hk : k % 32 ≠ 0 := fun hk => by simp [h.due_iff.mpr hk] at hd
    have hm : (k + 1 + 31) / 32 = (k + 31) / 32 := by omega
    rw [loaded_of_not_due hd, h.stream, h.count, hm]
    exact ⟨rfl, rfl⟩

theorem loaded_position (h : Progress s k t) : t.loaded.seq.position = k :=
  (congrArg Latches.position (loaded_frame t).2).trans h.position

/-- One more pixel, short of the last column that `bi` can hold. -/
theorem step (h : Progress s k t) (hk : k < 2040) (hw : (k + 1 + 31) / 32 ≤ s.cmdIn.length) :
    Progress s (k + 1) t.pixelStep := by
  obtain ⟨hcmd, hcp⟩ := h.loaded_words
  obtain ⟨rest, same⟩ := loaded_frame t
  obtain ⟨frame, -, latches⟩ := drawPixel_frame t.loaded
  have hpos : t.loaded.drawPixel.seq.position = k :=
    (congrArg Latches.position latches).trans h.loaded_position
  have hbi : t.loaded.drawPixel.seq.bi.toNat < 255 := by
    rw [position_column, hpos]
    omega
  exact {
    position := by rw [State.pixelStep, position_nextPixel _ hbi, hpos]
    enough := hw
    stream := (drawPixel_cmdIn _).trans hcmd
    count := (drawPixel_cp _).trans hcp
    payload := fun hne => by
      have hword : (k + 1) / 32 = k / 32 := by omega
      rw [hword, ← h.loaded_pay]
      exact drawPixel_pay _
    header := (congrArg (·.withProgressOf s.seq) latches).trans
      ((congrArg (·.withProgressOf s.seq) same).trans h.header)
    frame := (congrArg (·.withEffectsOf s) frame).trans ((congrArg (·.withEffectsOf s) rest).trans h.frame) }

end Progress

theorem progress_afterPixels {s : State} (h0 : s.seq.position = 0) {k : Nat} (hk : k ≤ 2040)
    (hw : (k + 31) / 32 ≤ s.cmdIn.length) : Progress s k (s.afterPixels k) := by
  induction k with
  | zero => exact .start h0
  | succ k ih =>
    rw [afterPixels_succ]
    exact (ih (by omega) (by omega)).step (by omega) hw

/-- The loop runs through the pixels whose payload has been presented. -/
theorem blitLoop_afterPixels {s : State} (h0 : s.seq.position = 0) (hs : s.Unstalled) {k : Nat} (hk : k ≤ 2040)
    (hw : (k + 31) / 32 ≤ s.cmdIn.length) (n : Nat) : blitLoop (n + k) s = blitLoop n (s.afterPixels k) := by
  induction k generalizing n with
  | zero => rfl
  | succ k ih =>
    have prog := progress_afterPixels h0 (k := k) (by omega) (by omega)
    calc blitLoop (n + (k + 1)) s
        = blitLoop (n + 1 + k) s := by rw [Nat.add_right_comm, Nat.add_assoc]
      _ = blitLoop (n + 1) (s.afterPixels k) := ih (by omega) (by omega) _
      _ = blitLoop n (s.afterPixels (k + 1)) := by
        rw [afterPixels_succ, blitLoop_step (prog.unstalled hs) (prog.presented hw)]

/-! How a run from column 0 ends. -/

section
variable {s : State} (h0 : s.seq.position = 0) (hs : s.Unstalled)
include h0 hs

/-- With its whole payload presented the run ends after the last pixel (R69). -/
theorem blitRun_of_payload (hw : spritePayloadWords s.seq.bw ≤ s.cmdIn.length) :
    Progress s (8 * s.seq.bw.toNat) (s.afterPixels (8 * s.seq.bw.toNat))
      ∧ s.blitRun = { s.afterPixels (8 * s.seq.bw.toNat) with phase := .idle } := by
  have hlt := s.seq.bw.isLt
  rw [spritePayloadWords] at hw
  have hk : 8 * s.seq.bw.toNat ≤ 2040 := by omega
  have hwords : (8 * s.seq.bw.toNat + 31) / 32 ≤ s.cmdIn.length := by omega
  refine ⟨progress_afterPixels h0 hk hwords, ?_⟩
  have run := blitLoop_afterPixels h0 hs hk hwords 0
  rw [Nat.zero_add] at run
  rw [State.blitRun, Latches.pixelsLeft_eq, h0, Nat.sub_zero, run, blitLoop]

/-- With its payload short the run holds before the column whose word is missing (R77). -/
theorem blitRun_of_short (hw : s.cmdIn.length < spritePayloadWords s.seq.bw) :
    Progress s (32 * s.cmdIn.length) (s.afterPixels (32 * s.cmdIn.length))
      ∧ s.blitRun = s.afterPixels (32 * s.cmdIn.length) := by
  have hlt := s.seq.bw.isLt
  rw [spritePayloadWords] at hw
  have hk : 32 * s.cmdIn.length ≤ 2040 := by omega
  have hwords : (32 * s.cmdIn.length + 31) / 32 ≤ s.cmdIn.length := by omega
  have prog := progress_afterPixels h0 hk hwords
  obtain ⟨n, hn⟩ : ∃ n, 8 * s.seq.bw.toNat = n + 1 + 32 * s.cmdIn.length :=
    ⟨8 * s.seq.bw.toNat - 1 - 32 * s.cmdIn.length, by omega⟩
  refine ⟨prog, ?_⟩
  rw [State.blitRun, Latches.pixelsLeft_eq, h0, Nat.sub_zero, hn, blitLoop_afterPixels h0 hs hk hwords]
  refine blitLoop_hold (prog.due_iff.mpr (by omega)) ?_ n
  rw [prog.stream, List.drop_eq_nil_iff]
  omega

/-- The words a whole run takes, its phase, and what it leaves alone (R51, R69). -/
theorem blitRun_frame_of_payload (hw : spritePayloadWords s.seq.bw ≤ s.cmdIn.length) :
    { s.blitRun with fb := s.fb, trace := s.trace, status := s.status, seq := s.seq } =
      { s with
        phase := .idle
        cp := s.cp + spritePayloadWords s.seq.bw
        cmdIn := s.cmdIn.drop (spritePayloadWords s.seq.bw) } := by
  obtain ⟨prog, e⟩ := blitRun_of_payload h0 hs hw
  have hm : (8 * s.seq.bw.toNat + 31) / 32 = spritePayloadWords s.seq.bw := by
    rw [spritePayloadWords]
    omega
  have stream := prog.stream
  have count := prog.count
  rw [hm] at stream count
  rw [e, ← stream, ← count]
  exact congrArg (fun u : State => { u with
    phase := .idle
    cp := (s.afterPixels (8 * s.seq.bw.toNat)).cp
    cmdIn := (s.afterPixels (8 * s.seq.bw.toNat)).cmdIn }) prog.frame

/-- The words a run that holds has taken, and what it leaves alone (R77). -/
theorem blitRun_frame_of_short (hw : s.cmdIn.length < spritePayloadWords s.seq.bw) :
    { s.blitRun with fb := s.fb, trace := s.trace, status := s.status, seq := s.seq } =
      { s with cp := s.cp + s.cmdIn.length, cmdIn := [] } := by
  obtain ⟨prog, e⟩ := blitRun_of_short h0 hs hw
  have hm : (32 * s.cmdIn.length + 31) / 32 = s.cmdIn.length := by omega
  have stream := prog.stream
  have count := prog.count
  rw [hm, List.drop_length] at stream
  rw [hm] at count
  rw [e, ← count]
  conv_rhs => rw [← stream]
  exact congrArg (fun u : State => { u with
    cp := (s.afterPixels (32 * s.cmdIn.length)).cp
    cmdIn := (s.afterPixels (32 * s.cmdIn.length)).cmdIn }) prog.frame

end

end Sys2Proof.Machine
end

section
/-! A payload that comes late, and the length of every header (R11, R51, R77, R78): the words behind those that the
sequencer takes make no difference to it, so it goes on from its hold as if they had been presented at once. -/

namespace Sys2Proof.Machine

open Claims

/-- More words are presented behind those that are. -/
def State.presented (s : State) (more : List Word) : State := { s with cmdIn := s.cmdIn ++ more }

theorem drawPixel_presented (s : State) (more : List Word) :
    (s.presented more).drawPixel = s.drawPixel.presented more := by
  rcases drawPixel_cases s with ⟨hb, e⟩ | ⟨hb, hx, hy, e⟩ | ⟨hb, hoff, e⟩
  · rw [e, drawPixel_of_bill (by exact hb)]
  · rw [e, drawPixel_of_onScreen (by exact hb) (by exact ⟨hx, hy⟩)]
    rfl
  · rw [e, drawPixel_of_offScreen (by exact hb) (by exact hoff)]
    rfl

theorem pixelStep_presented {s : State} (h : s.payloadDue = true → s.cmdIn ≠ []) (more : List Word) :
    (s.presented more).pixelStep = s.pixelStep.presented more := by
  have loaded : (s.presented more).loaded = s.loaded.presented more := by
    cases hd : s.payloadDue with
    | false => rw [loaded_of_not_due hd, loaded_of_not_due (by exact hd)]
    | true =>
      obtain ⟨w, rest, hw⟩ := List.exists_cons_of_ne_nil (h hd)
      rw [loaded_of_due hd, loaded_of_due (by exact hd)]
      simp [State.presented, State.takePayload, State.takeWord, hw]
  rw [State.pixelStep, loaded, drawPixel_presented]
  rfl

theorem afterPixels_presented {s : State} (h0 : s.seq.position = 0) {k : Nat} (hk : k ≤ 2040)
    (hw : (k + 31) / 32 ≤ s.cmdIn.length) (more : List Word) :
    (s.presented more).afterPixels k = (s.afterPixels k).presented more := by
  induction k with
  | zero => rfl
  | succ k ih =>
    have prog := progress_afterPixels h0 (k := k) (by omega) (by omega)
    rw [afterPixels_succ, afterPixels_succ, ih (by omega) (by omega), pixelStep_presented (prog.presented hw)]

/-- The run goes on from its hold as it would have with the words presented at once (R11, R77). -/
theorem blitRun_late {s : State} (h0 : s.seq.position = 0) (hs : s.Unstalled)
    (hw : s.cmdIn.length < spritePayloadWords s.seq.bw) (more : List Word) :
    ({ s.blitRun with cmdIn := more } : State).blitRun = (s.presented more).blitRun := by
  obtain ⟨prog, e⟩ := blitRun_of_short h0 hs hw
  have hlt := s.seq.bw.isLt
  rw [spritePayloadWords] at hw
  have hk : 32 * s.cmdIn.length ≤ 2040 := by omega
  have hwords : (32 * s.cmdIn.length + 31) / 32 ≤ s.cmdIn.length := by omega
  have hold : ({ s.blitRun with cmdIn := more } : State) = (s.presented more).afterPixels (32 * s.cmdIn.length) := by
    have empty : (s.afterPixels (32 * s.cmdIn.length)).cmdIn = [] := by
      rw [prog.stream, List.drop_eq_nil_iff]
      omega
    rw [afterPixels_presented h0 hk hwords, e, State.presented, empty, List.nil_append]
  have enough : (32 * s.cmdIn.length + 31) / 32 ≤ (s.presented more).cmdIn.length := by
    rw [State.presented, List.length_append]
    omega
  calc ({ s.blitRun with cmdIn := more } : State).blitRun
      = blitLoop s.blitRun.seq.pixelsLeft { s.blitRun with cmdIn := more } := rfl
    _ = blitLoop (8 * s.seq.bw.toNat - 32 * s.cmdIn.length) ((s.presented more).afterPixels (32 * s.cmdIn.length)) := by
      rw [hold, e, prog.pixelsLeft]
    _ = blitLoop (8 * s.seq.bw.toNat - 32 * s.cmdIn.length + 32 * s.cmdIn.length) (s.presented more) :=
      (blitLoop_afterPixels (by exact h0) (by exact hs) hk enough _).symm
    _ = blitLoop s.seq.pixelsLeft (s.presented more) := by
      rw [(Progress.start h0).pixelsLeft]
      congr 1
      omega
    _ = (s.presented more).blitRun := rfl

/-- PSB's turn after the hold, with nothing else scheduled. -/
theorem step_late {s : State} (h0 : s.seq.position = 0) (hs : s.Unstalled)
    (hw : s.cmdIn.length < spritePayloadWords s.seq.bw) (hi : s.inputs = []) (hr : s.rst = false)
    (ho : s.outstanding = none) (hp : s.phase = .blit) (more : List Word) :
    step { s.blitRun with cmdIn := more } = .next (s.presented more).blitRun := by
  have frame := blitRun_frame_of_short h0 hs hw
  have hi' : s.blitRun.inputs = [] := (congrArg State.inputs frame).trans hi
  have hr' : s.blitRun.rst = false := (congrArg State.rst frame).trans hr
  have ho' : s.blitRun.outstanding = none := (congrArg State.outstanding frame).trans ho
  have hp' : s.blitRun.phase = .blit := (congrArg State.phase frame).trans hp
  rw [step_of_no_inputs (by exact hi'), psbStep_of_blit (by exact hr') (by exact ho') (by exact hp'),
    blitRun_late h0 hs hw]

theorem blitRun_phase_of_payload {s : State} (h0 : s.seq.position = 0) (hs : s.Unstalled)
    (hw : spritePayloadWords s.seq.bw ≤ s.cmdIn.length) : s.blitRun.phase = .idle :=
  congrArg State.phase (blitRun_frame_of_payload h0 hs hw)

/-! DRAW_SPRITE and its illegal form, from column 0. -/

theorem exec_drawSprite (s : State) (x0 : Column) (y0 : Row) (w : BitVec 8) :
    exec (.drawSprite x0 y0 w) s = .next (s.takeWord.blitStart x0 y0 w false).blitRun := rfl

theorem illegalHeader_illegalBlit (s : State) (cw : Word) (w : BitVec 8) :
    s.illegalHeader cw (.illegalBlit w) = (s.raiseIll.takeWord.blitStart (fieldX cw) (fieldY cw) w true).blitRun := rfl

theorem takeWord_presented {s : State} (hc : s.cmdIn ≠ []) (more : List Word) :
    (s.presented more).takeWord = s.takeWord.presented more := by
  simp [State.takeWord, State.presented, List.tail_append_of_ne_nil hc]

theorem atHeader_presented {s : State} {cw : Word} {rest : List Word} (h : AtHeader s cw rest) (more : List Word) :
    AtHeader (s.presented more) cw (rest ++ more) := by
  obtain ⟨hi, hr, hp, ho, hq, hc⟩ := h
  exact ⟨hi, hr, hp, ho, hq, by rw [State.presented, hc]; rfl⟩

/-- Settles O25: where the payload is short, the later turn is the run with the words behind. -/
theorem latePayloadMakesNoDifference : Obligations.LatePayloadMakesNoDifference := by
  intro x0 y0 w s t more hs hi hr ho hc ht hblit
  rw [exec_drawSprite] at ht
  cases ht
  have hu : (s.takeWord.blitStart x0 y0 w false).Unstalled := .inl hs
  rcases Nat.lt_or_ge s.cmdIn.tail.length (spritePayloadWords w) with hw | hw
  case inr => exact absurd (hblit.symm.trans (blitRun_phase_of_payload rfl hu hw)) nofun
  case inl =>
    calc step { (s.takeWord.blitStart x0 y0 w false).blitRun with cmdIn := more }
        = .next ((s.takeWord.blitStart x0 y0 w false).presented more).blitRun := step_late rfl hu hw hi hr ho rfl more
      _ = .next ((s.takeWord.presented more).blitStart x0 y0 w false).blitRun := rfl
      _ = exec (.drawSprite x0 y0 w) (s.presented more) := by rw [exec_drawSprite, takeWord_presented hc]

/-- A run that discards its whole payload makes no access and sets no flag (R78). -/
theorem blitRun_discards_payload {s : State} (h0 : s.seq.position = 0) (hb : s.seq.bill = true)
    (hw : spritePayloadWords s.seq.bw ≤ s.cmdIn.length) :
    { s.blitRun with seq := s.seq } =
      { s with
        phase := .idle
        cp := s.cp + spritePayloadWords s.seq.bw
        cmdIn := s.cmdIn.drop (spritePayloadWords s.seq.bw) } := by
  obtain ⟨fb, trace, status⟩ := blitLoop_discards s.seq.pixelsLeft s hb
  rw [← blitRun_frame_of_payload h0 (.inr hb) hw]
  simp only [State.blitRun, fb, trace, status]

/-- An illegal blit header with its whole payload: ILL, the words taken, and nothing else but latches (R78). -/
theorem illegalBlit_of_payload {s : State} (cw : Word) {w : BitVec 8} (hp : s.phase = .idle)
    (hw : spritePayloadWords w ≤ s.cmdIn.tail.length) :
    { s.illegalHeader cw (.illegalBlit w) with seq := s.seq } =
      { s with
        status := ⟨true, s.status.oor⟩
        cp := s.cp + (1 + spritePayloadWords w)
        cmdIn := s.cmdIn.tail.drop (spritePayloadWords w) } := by
  have run := blitRun_discards_payload (s := s.raiseIll.takeWord.blitStart (fieldX cw) (fieldY cw) w true) rfl rfl hw
  rw [hp, ← Nat.add_assoc]
  exact congrArg (fun t : State => { t with seq := s.seq }) run

/-- Settles O27: the discarding run goes on like any other, and the whole of it takes the payload and nothing else. -/
theorem lateDiscardMakesNoDifference : Obligations.LateDiscardMakesNoDifference := by
  intro cw s t rest more n h hop hbad hn hshort ht
  have hd := decode_of_illegal_blit hop hbad
  rw [← spritePayloadWords_fieldData] at hn
  rw [step_of_atHeader h, runHeader_of_error hd] at ht
  cases ht
  have at_once : step (s.presented more) = .next ((s.presented more).illegalHeader cw (.illegalBlit (fieldData cw))) := by
    rw [step_of_atHeader (atHeader_presented h more), runHeader_of_error hd]
  obtain ⟨hi, hr, hp, ho, -, hc⟩ := h
  have hne : s.cmdIn ≠ [] := by simp [hc]
  have hw : s.cmdIn.tail.length < spritePayloadWords (fieldData cw) := by
    rw [hc, List.tail_cons, ← hn]
    exact hshort
  have late : step { s.illegalHeader cw (.illegalBlit (fieldData cw)) with cmdIn := more } = step (s.presented more) :=
    calc step { s.illegalHeader cw (.illegalBlit (fieldData cw)) with cmdIn := more }
        = .next ((s.raiseIll.takeWord.blitStart (fieldX cw) (fieldY cw) (fieldData cw) true).presented more).blitRun :=
          step_late (s := s.raiseIll.takeWord.blitStart (fieldX cw) (fieldY cw) (fieldData cw) true) rfl (.inr rfl) hw
            hi hr ho rfl more
      _ = .next ((s.raiseIll.takeWord.presented more).blitStart (fieldX cw) (fieldY cw) (fieldData cw) true).blitRun := rfl
      _ = .next ((s.presented more).illegalHeader cw (.illegalBlit (fieldData cw))) := by
        rw [illegalHeader_illegalBlit, ← takeWord_presented (s := s.raiseIll) hne]
        rfl
      _ = step (s.presented more) := at_once.symm
  refine ⟨late, fun henough => ⟨_, late.trans at_once, ?_⟩⟩
  have words : (s.presented more).cmdIn.tail = rest ++ more := by simp [State.presented, hc]
  have whole := illegalBlit_of_payload (s := s.presented more) cw (w := fieldData cw) hp
    (by rw [words, List.length_append]; omega)
  rw [words, ← hn, List.drop_append, List.drop_eq_nil_of_le (Nat.le_of_lt hshort), List.nil_append] at whole
  exact whole

/-! The length of a header (R51). -/

theorem blitRun_words_of_payload {s : State} (h0 : s.seq.position = 0) (hs : s.Unstalled)
    (hw : spritePayloadWords s.seq.bw ≤ s.cmdIn.length) :
    s.blitRun.phase = .idle ∧ s.blitRun.cp = s.cp + spritePayloadWords s.seq.bw
      ∧ s.blitRun.cmdIn = s.cmdIn.drop (spritePayloadWords s.seq.bw) := by
  have frame := blitRun_frame_of_payload h0 hs hw
  exact ⟨congrArg State.phase frame, congrArg State.cp frame, congrArg State.cmdIn frame⟩

/-- A command that draws no sprite takes its header and ends. -/
theorem exec_one_word {s : State} (hs : StoreAnswers s) {i : Instr} (hi : ∀ x0 y0 w, i ≠ .drawSprite x0 y0 w) :
    ∃ t, exec i s = .next t ∧ t.phase = s.phase ∧ t.cp = s.cp + 1 ∧ t.cmdIn = s.cmdIn.tail := by
  cases i with
  | setPixel x y v => exact ⟨_, exec_setPixel hs x y v, rfl, rfl, rfl⟩
  | getPixel x y => exact ⟨_, exec_getPixel hs x y, rfl, rfl, rfl⟩
  | readStripe c st => exact ⟨_, exec_readStripe hs c st, rfl, rfl, rfl⟩
  | writeStripe c st v => exact ⟨_, exec_writeStripe hs c st v, rfl, rfl, rfl⟩
  | drawSprite x0 y0 w => exact absurd rfl (hi x0 y0 w)
  | readStatus => exact ⟨_, rfl, rfl, rfl, rfl⟩
  | clearStatus => exact ⟨_, rfl, rfl, rfl, rfl⟩

theorem runHeader_one_word {s : State} (hs : StoreAnswers s) {cw : Word} (hop : fieldOp cw ≠ 5#4) :
    ∃ t, s.runHeader cw = .next t ∧ t.phase = s.phase ∧ t.cp = s.cp + 1 ∧ t.cmdIn = s.cmdIn.tail := by
  obtain ⟨legal, illegal⟩ := decode_of_op_ne_five hop
  cases hd : decode cw with
  | ok i =>
    rw [runHeader_of_ok hd]
    refine exec_one_word hs fun x0 y0 w e => legal x0 y0 w ?_
    rw [hd, e]
  | error why =>
    rw [runHeader_of_error hd]
    rcases illegalHeader_cases s cw why with ⟨-, e⟩ | ⟨w, e, -⟩
    · exact ⟨_, rfl, by rw [e]; rfl, by rw [e]; rfl, by rw [e]; rfl⟩
    · exact absurd (by rw [hd, e]) (illegal w)

theorem runHeader_of_op_five {s : State} (hs : StoreAnswers s) {cw : Word} (hop : fieldOp cw = 5#4)
    (hw : spritePayloadWords (fieldData cw) ≤ s.cmdIn.tail.length) :
    ∃ t, s.runHeader cw = .next t ∧ t.phase = .idle ∧ t.cp = s.cp + 1 + spritePayloadWords (fieldData cw)
      ∧ t.cmdIn = s.cmdIn.tail.drop (spritePayloadWords (fieldData cw)) := by
  have hd := decode_of_op_five hop
  split at hd
  · rw [runHeader_of_ok hd, exec_drawSprite]
    exact ⟨_, rfl, blitRun_words_of_payload rfl (.inl hs) hw⟩
  · rw [runHeader_of_error hd, illegalHeader_illegalBlit]
    exact ⟨_, rfl, blitRun_words_of_payload rfl (.inr rfl) hw⟩

/-- Settles O33: a header of opcode 5, legal or not, takes its payload in a run of the sequencer from column 0, and any
other header is one word. -/
theorem headerAdvancesByItsLength : Obligations.HeaderAdvancesByItsLength := by
  intro s cw rest n hs h hn hlen
  rw [step_of_atHeader h]
  obtain ⟨-, -, hp, -, -, hc⟩ := h
  have tail : s.cmdIn.tail = rest := by rw [hc, List.tail_cons]
  by_cases hop : fieldOp cw = 5#4
  · rw [if_pos ((fieldOp_eq_five_iff cw).mp hop), ← spritePayloadWords_fieldData] at hn
    obtain ⟨t, run, idle, count, stream⟩ := runHeader_of_op_five hs hop (by rw [tail]; omega)
    refine ⟨t, run, idle, by rw [count, hn, Nat.add_assoc], ?_⟩
    rw [stream, List.drop_tail, hn, Nat.add_comm]
  · rw [if_neg (mt (fieldOp_eq_five_iff cw).mpr hop)] at hn
    obtain ⟨t, run, phase, count, stream⟩ := runHeader_one_word hs hop
    exact ⟨t, run, phase.trans hp, by rw [count, hn], by rw [stream, hn, List.drop_one]⟩

end Sys2Proof.Machine
end

section
/-! The invariant of the machine (R12, R13, R22, R69, R71, R78, R97, R98): the sequencer keeps it pixel by pixel, a command
by its one access, the stripe store by the access it completes, and each move of another agent by what it may touch. -/

namespace Sys2Proof.Machine

open Claims

/-- With nothing outstanding and reset released, four parts of the invariant are left to show. -/
theorem inv_of_free {s : State} (ho : s.outstanding = none) (hr : s.rst = false) (memory : s.fb.wf)
    (queue : s.rq.length ≤ Config.rspDepth)
    (position : s.phase = .blit → 8 * s.seq.bi.toNat + s.seq.bj.toNat ≤ 8 * s.seq.bw.toNat)
    (discarding : s.phase = .blit → s.seq.bill = true → s.status.ill = true) : s.Inv where
  memory := memory
  queue := queue
  position := position
  pixel := fun _ a ha => by simp [ho] at ha
  room := fun a ha => by simp [ho] at ha
  discarding := discarding
  inReset := fun h => by simp [hr] at h

/-- At a command boundary, with reset released, the memory and the queue are left to show. -/
theorem inv_of_boundary {s : State} (hp : s.phase = .idle) (ho : s.outstanding = none) (hr : s.rst = false)
    (memory : s.fb.wf) (queue : s.rq.length ≤ Config.rspDepth) : s.Inv :=
  inv_of_free ho hr memory queue (fun h => by simp [hp] at h) (fun h => by simp [hp] at h)

/-- An access outstanding is one that reset has not given up. -/
theorem rst_of_outstanding {s : State} (h : s.Inv) {a : PendingAccess} (ha : s.outstanding = some a) :
    s.rst = false := by
  rw [Bool.eq_false_iff]
  intro hr
  obtain ⟨-, ho, -⟩ := h.inReset hr
  simp [ho] at ha

/-! The sequencer. -/

/-- The invariant while the sequencer runs, with `n` pixels to go. -/
structure State.Running (n : Nat) (s : State) : Prop where
  memory : s.fb.wf
  queue : s.rq.length ≤ Config.rspDepth
  blit : s.phase = .blit
  free : s.outstanding = none
  released : s.rst = false
  left : s.seq.position + n = 8 * s.seq.bw.toNat
  discarding : s.seq.bill = true → s.status.ill = true

namespace State.Running

variable {s : State} {n : Nat}

theorem position_le (h : s.Running n) : 8 * s.seq.bi.toNat + s.seq.bj.toNat ≤ 8 * s.seq.bw.toNat := by
  have := h.left
  rw [Latches.position] at this
  omega

theorem inv (h : s.Running n) : s.Inv :=
  inv_of_free h.free h.released h.memory h.queue (fun _ => h.position_le) (fun _ => h.discarding)

theorem finished (h : s.Running n) : ({ s with phase := .idle } : State).Inv :=
  inv_of_boundary rfl h.free h.released h.memory h.queue

theorem take (h : s.Running n) (w : Word) : (s.takePayload w).Running n := { h with }

theorem draw (h : s.Running n) : s.drawPixel.Running n :=
  drawPixel_keeps h (fun x y _ => { h with memory := setStripe_wf h.memory x (pixelStripe y) _ }) fun _ => { h with }

theorem next (h : s.Running (n + 1)) : s.nextPixel.Running n where
  memory := h.memory
  queue := h.queue
  blit := h.blit
  free := h.free
  released := h.released
  left := by
    have left := h.left
    have hw := s.seq.bw.isLt
    have hcol := position_column s.seq
    rw [position_nextPixel s (by omega), nextPixel_bw]
    omega
  discarding := h.discarding

theorem wait (h : s.Running (n + 1)) (hw : s.pixelStalls = true) : s.awaitPixel.Inv where
  memory := h.memory
  queue := h.queue
  position := fun _ => h.position_le
  pixel := by
    rintro - a ha
    obtain ⟨-, hb, hx, hy⟩ := (pixelStalls_iff s).mp hw
    rw [awaitPixel_outstanding, Option.some_inj] at ha
    have left := h.left
    have hcol := position_column s.seq
    exact ⟨hb, by rw [awaitPixel_seq]; omega, hx, hy, .inl ha.symm⟩
  room := by
    intro a ha hresp
    rw [awaitPixel_outstanding, Option.some_inj] at ha
    subst ha
    cases hresp
  discarding := fun _ => h.discarding
  inReset := fun hr => by simp [h.released] at hr

/-- Any run of the sequencer to its end, to a missing word or to an access that waits, ends within the invariant. -/
theorem blitLoop_inv (h : s.Running n) : (blitLoop n s).Inv :=
  blitLoop_induct (P := fun n s => s.Running n) (fun _ h => h.finished) (fun _ _ h _ _ => h.inv)
    (fun _ _ w _ h _ _ _ => (h.take w).draw.next) (fun _ _ h _ _ => h.draw.next)
    (fun _ _ w _ h _ _ hw => (h.take w).wait hw) (fun _ _ h _ hw => h.wait hw) n s h

end State.Running

theorem blitRun_inv {s : State} (h : s.Inv) (hp : s.phase = .blit) (ho : s.outstanding = none) (hr : s.rst = false) :
    s.blitRun.Inv := by
  refine State.Running.blitLoop_inv ⟨h.memory, h.queue, hp, ho, hr, ?_, h.discarding hp⟩
  have := h.position hp
  rw [Latches.pixelsLeft_eq, Latches.position]
  omega

/-- A sprite's header starts the sequencer at its first pixel. -/
theorem blitStart_blitRun_inv {s : State} (h : s.Inv) (ho : s.outstanding = none) (hr : s.rst = false) (x0 : Column)
    (y0 : Row) (w : BitVec 8) (b : Bool) (hill : b = true → s.status.ill = true) : (s.blitStart x0 y0 w b).blitRun.Inv :=
  blitRun_inv (inv_of_free ho hr h.memory h.queue (fun _ => Nat.zero_le _) fun _ => hill) rfl ho hr

/-! The stripe store. -/

theorem completeAccess_inv {s : State} {a : PendingAccess} (h : s.Inv) (ha : s.outstanding = some a) :
    (s.completeAccess a).Inv := by
  have hr := rst_of_outstanding h ha
  cases a with
  | readStripe c st =>
    have room := h.room _ ha rfl
    exact inv_of_free rfl hr h.memory (by simpa [State.completeAccess] using room) h.position h.discarding
  | getPixel x y =>
    have room := h.room _ ha rfl
    exact inv_of_free rfl hr h.memory (by simpa [State.completeAccess] using room) h.position h.discarding
  | writeStripe c st v => exact inv_of_free rfl hr (setStripe_wf h.memory c st v) h.queue h.position h.discarding
  | pixelRead x y v =>
    exact {
      memory := h.memory
      queue := h.queue
      position := h.position
      pixel := fun hp b hb => by
        obtain ⟨hbill, hcol, hx, hy, e | e⟩ := h.pixel hp _ ha
        · cases hb
          cases e
          exact ⟨hbill, hcol, hx, hy, .inr rfl⟩
        · cases e
      room := fun b hb hresp => by
        cases hb
        cases hresp
      discarding := h.discarding
      inReset := fun h => by simp [State.completeAccess, hr] at h }
  | pixelWrite x y v =>
    have memory := setStripe_wf h.memory x (pixelStripe y) (withBit s.seq.rmw (pixelBit y) v)
    rw [State.completeAccess]
    cases hp : s.phase with
    | idle =>
      rw [pixelDone_of_idle (by exact hp)]
      exact inv_of_boundary hp rfl hr memory h.queue
    | blit =>
      rw [pixelDone_of_blit (by exact hp)]
      refine inv_of_free rfl hr memory h.queue (fun _ => ?_) h.discarding
      obtain ⟨-, hcol, -⟩ := h.pixel hp _ ha
      have hw := s.seq.bw.isLt
      have hj := s.seq.bj.isLt
      have pos := position_nextPixel s (by omega)
      have within : s.nextPixel.seq.position ≤ 8 * s.seq.bw.toNat := by
        rw [pos, Latches.position]
        omega
      exact within

theorem completeSecond_inv {s : State} (h : s.Inv) : s.completeSecond.Inv := by
  rw [State.completeSecond]
  split
  · exact h
  · exact completeAccess_inv h ‹_›

/-- After both halves of a pixel, or the one access of any other command, nothing is outstanding. -/
theorem completeSecond_outstanding (s : State) (a : PendingAccess) :
    (s.completeAccess a).completeSecond.outstanding = none := by
  have done (t : State) : t.pixelDone.outstanding = none := congrArg State.outstanding (pixelDone_frame t)
  cases a with
  | readStripe c st => rfl
  | getPixel x y => rfl
  | writeStripe c st v => rfl
  | pixelRead x y v => exact done _
  | pixelWrite x y v =>
    have e := done (s.pixelStore x y v)
    simp only [State.completeAccess, State.completeSecond, e]

theorem completeAccess_rst (s : State) (a : PendingAccess) : (s.completeAccess a).rst = s.rst :=
  completeAccess_keeps (P := fun t => t.rst = s.rst) (fun _ _ h => h) (fun _ _ h => h) (fun _ _ _ h => h)
    (fun _ _ _ _ h => h) (fun _ _ h => h) rfl a

theorem completeSecond_rst (s : State) : s.completeSecond.rst = s.rst := by
  rw [State.completeSecond]
  split
  · rfl
  · exact completeAccess_rst _ _

theorem finishAccess_inv {s : State} {a : PendingAccess} (h : s.Inv) (ha : s.outstanding = some a) :
    (s.finishAccess a).Inv := by
  have done := completeSecond_inv (completeAccess_inv h ha)
  rcases finishAccess_cases s a with ⟨-, e⟩ | ⟨hp, e⟩
  · rw [e]
    exact done
  · rw [e]
    refine blitRun_inv done hp (completeSecond_outstanding s a) ?_
    rw [completeSecond_rst, completeAccess_rst, rst_of_outstanding h ha]

/-! PSB's turn. -/

section
variable {s : State} (h : s.Inv) (hp : s.phase = .idle) (ho : s.outstanding = none) (hr : s.rst = false)
include h hp ho hr

theorem exec_inv (hq : s.rq.length < Config.rspDepth) {i : Instr} {t : State} (ht : exec i s = .next t) : t.Inv := by
  have boundary {u : State} (hp' : u.phase = s.phase) (ho' : u.outstanding = s.outstanding) (hr' : u.rst = s.rst)
      (memory : u.fb.wf) (queue : u.rq.length ≤ Config.rspDepth) : u.Inv :=
    inv_of_boundary (hp'.trans hp) (ho'.trans ho) (hr'.trans hr) memory queue
  rcases exec_cases i s with ⟨-, a, -, e⟩ | ⟨-, x, y, v, -, e⟩ | ⟨-, x, y, -, e⟩ | ⟨-, c, st, -, e⟩
    | ⟨-, c, st, v, -, e⟩ | ⟨x0, y0, w, -, e⟩ | ⟨-, e⟩ | ⟨-, e⟩ <;> rw [e] at ht <;> cases ht
  · exact {
      memory := h.memory
      queue := h.queue
      position := h.position
      pixel := fun hb => by simp [hp] at hb
      room := fun _ _ _ => hq
      discarding := h.discarding
      inReset := fun hb => by simp [hr] at hb }
  · exact boundary rfl rfl rfl (setStripe_wf h.memory _ _ _) h.queue
  · exact boundary rfl rfl rfl h.memory (by simpa using hq)
  · exact boundary rfl rfl rfl h.memory (by simpa using hq)
  · exact boundary rfl rfl rfl (setStripe_wf h.memory _ _ _) h.queue
  · exact blitStart_blitRun_inv (s := s.takeWord) (boundary rfl rfl rfl h.memory h.queue) ho hr x0 y0 w false nofun
  · exact boundary rfl rfl rfl h.memory (by simpa using hq)
  · exact boundary rfl rfl rfl h.memory h.queue

theorem illegalHeader_inv (cw : Word) (why : Reject) : (s.illegalHeader cw why).Inv := by
  have raised : s.raiseIll.takeWord.Inv := inv_of_boundary hp ho hr h.memory h.queue
  rcases illegalHeader_cases s cw why with ⟨-, e⟩ | ⟨w, -, e⟩ <;> rw [e]
  · exact raised
  · exact blitStart_blitRun_inv raised ho hr _ _ w true fun _ => rfl

end

theorem psbStep_inv {s t : State} (h : s.Inv) (ht : s.psbStep = .next t) : t.Inv := by
  rcases psbStep_cases s with ⟨e, -⟩ | ⟨-, -, a, ha, e⟩ | ⟨hr, ho, hp, e⟩
    | ⟨hr, ho, hp, hq, cw, rest, -, ⟨i, -, e⟩ | ⟨why, -, e⟩⟩ <;> rw [e] at ht
  · cases ht
    exact h
  · cases ht
    exact finishAccess_inv h ha
  · cases ht
    exact blitRun_inv h hp ho hr
  · exact exec_inv h hp ho hr ((rqHasRoom_iff s).mp hq) ht
  · cases ht
    exact illegalHeader_inv h hp ho hr cw why

/-! Every agent. -/

theorem abortedTurn_memory (s : State) (events words : Nat) (h : s.fb.wf) : (s.abortedTurn events words).fb.wf :=
  replay_wf h _

theorem enterReset_inv {s : State} (h : s.fb.wf) : s.enterReset.Inv where
  memory := h
  queue := Nat.zero_le _
  position := nofun
  pixel := nofun
  room := nofun
  discarding := nofun
  inReset := fun _ => ⟨rfl, rfl, rfl, rfl, rfl⟩

/-- Taking a response makes room; while reset is asserted there is none to take. -/
theorem deliver_inv {s : State} (h : s.Inv) {v : Word} {rest : List Word} (hq : s.rq = v :: rest) :
    (s.deliver v rest).Inv := by
  have shorter : rest.length < s.rq.length := by simp [hq]
  exact { h with
    queue := Nat.le_of_lt (Nat.lt_of_lt_of_le shorter h.queue)
    room := fun a ha hresp => Nat.lt_trans shorter (h.room a ha hresp)
    inReset := fun hr => by
      obtain ⟨-, -, -, empty, -⟩ := h.inReset hr
      simp [hq] at empty }

/-- Settles O46: by the agent whose move it is. -/
theorem everyStepKeepsTheInvariant : Obligations.EveryStepKeepsTheInvariant := by
  intro s t h ht
  have scheduled (later : List Input) : ({ s with inputs := later } : State).Inv := { h with }
  rcases step_cases s with ⟨-, e⟩ | ⟨later, -, e⟩ | ⟨w, later, -, e⟩ | ⟨later, -, -, e⟩ | ⟨later, v, rest, -, hq, e⟩
    | ⟨c, st, v, later, -, -, e⟩ | ⟨c, st, v, later, -, -, e⟩ | ⟨ev, k, later, -, e⟩ | ⟨later, -, e⟩ | ⟨later, -, e⟩
    | ⟨later, -, -, e⟩ | ⟨later, a, -, ha, e⟩ | ⟨later, -, e⟩ <;> rw [e] at ht
  · exact psbStep_inv h ht
  · exact psbStep_inv (scheduled later) ht
  · cases ht
    exact { h with }
  · exact psbStep_inv h ht
  · cases ht
    exact deliver_inv (scheduled later) hq
  · cases ht
    exact { h with memory := setStripe_wf h.memory c st v }
  · cases ht
  · cases ht
    exact enterReset_inv (abortedTurn_memory _ ev k h.memory)
  · cases ht
    exact { h with inReset := nofun }
  · cases ht
    exact { h with }
  · cases ht
    exact scheduled later
  · cases ht
    exact completeAccess_inv (scheduled later) ha
  · cases ht
    exact { h with }

end Sys2Proof.Machine
end

section
/-! What a DRAW_SPRITE draws (R44, R68, R69, R71 to R74, R77): its first pixels, one after the other, take their bits of the
payload, and so do the framebuffer and the trace as the pseudocode of R69 writes them. -/

namespace Sys2Proof.Machine

open Claims

/-! The pixels. -/

/-- What drawing the pixel under way does to every pixel (R65, R69, R72). -/
theorem pixel_drawPixel {s : State} (hb : s.seq.bill = false) (x : Column) (y : Row) :
    s.drawPixel.pixel x y =
      if x.toNat = s.seq.bx0.toNat + s.seq.bi.toNat ∧ y.toNat = s.seq.by0.toNat + s.seq.bj.toNat then s.seq.pixelValue
      else s.pixel x y := by
  have hx := x.isLt
  have hy := y.isLt
  by_cases h : s.seq.OnScreen
  · obtain ⟨hcol, hrow⟩ := id h
    rw [drawPixel_of_onScreen hb h, pixel_pixelWrite]
    simp only [← BitVec.toNat_inj, BitVec.toNat_ofNat, Nat.mod_eq_of_lt (show _ < 2 ^ 7 from hcol),
      Nat.mod_eq_of_lt (show _ < 2 ^ 6 from hrow)]
  · rw [drawPixel_of_offScreen hb h, if_neg]
    · rfl
    · rintro ⟨hcol, hrow⟩
      exact h ⟨by omega, by omega⟩

theorem pixel_loaded (s : State) (x : Column) (y : Row) : s.loaded.pixel x y = s.pixel x y :=
  (congrArg (State.pixel · x y) (loaded_frame s).1 :)

/-- Pixel (x, y) is among the first `k` of the sprite at (x0, y0), columns outer and rows inner (R69, R70). -/
def AmongFirst (k : Nat) (x0 : Column) (y0 : Row) (x : Column) (y : Row) : Prop :=
  x0.toNat ≤ x.toNat ∧ y0.toNat ≤ y.toNat ∧ y.toNat < y0.toNat + 8
    ∧ 8 * (x.toNat - x0.toNat) + (y.toNat - y0.toNat) < k

theorem amongFirst_columns (n : Nat) (x0 : Column) (y0 : Row) (x : Column) (y : Row) :
    AmongFirst (8 * n) x0 y0 x y ↔ InSprite x0 y0 n x y := by
  rw [AmongFirst, InSprite]
  omega

/-- The pixel that comes next. -/
theorem amongFirst_succ (k : Nat) (x0 : Column) (y0 : Row) (x : Column) (y : Row) :
    AmongFirst (k + 1) x0 y0 x y ↔
      (x.toNat = x0.toNat + k / 8 ∧ y.toNat = y0.toNat + k % 8) ∨ AmongFirst k x0 y0 x y := by
  rw [AmongFirst, AmongFirst]
  omega

/-- The value of pixel `k` of a sprite: bit `k mod 8` of column byte `k / 8` (R48, R68). -/
theorem Progress.pixelValue {s t : State} {k : Nat} (h : Progress s k t) :
    t.loaded.seq.pixelValue = (spriteByte s.cmdIn (k / 8)).getLsbD (k % 8) := by
  rw [Latches.pixelValue, h.loaded_pay, position_column, position_row, h.loaded_position, spriteByte,
    Nat.div_div_eq_div_mul]

/-- What one more pixel does to every pixel of the screen. -/
theorem Progress.pixel_pixelStep {s t : State} {k : Nat} (h : Progress s k t) (hb : s.seq.bill = false) (x : Column)
    (y : Row) : t.pixelStep.pixel x y =
      if x.toNat = s.seq.bx0.toNat + k / 8 ∧ y.toNat = s.seq.by0.toNat + k % 8 then
        (spriteByte s.cmdIn (k / 8)).getLsbD (k % 8)
      else t.pixel x y := by
  have same := (loaded_frame t).2
  have hx : t.loaded.seq.bx0 = s.seq.bx0 := (congrArg Latches.bx0 same).trans h.bx0
  have hy : t.loaded.seq.by0 = s.seq.by0 := (congrArg Latches.by0 same).trans h.by0
  have hbill : t.loaded.seq.bill = false := (congrArg Latches.bill same).trans (h.bill.trans hb)
  calc t.pixelStep.pixel x y
      = t.loaded.drawPixel.pixel x y := rfl
    _ = _ := by rw [pixel_drawPixel hbill, h.pixelValue, position_column, position_row, h.loaded_position, hx, hy,
      pixel_loaded]

/-- What the first pixels of a legal sprite leave: each of them its bit of the payload, every other as it was (R73, R74). -/
theorem pixel_afterPixels {s : State} (h0 : s.seq.position = 0) (hb : s.seq.bill = false) {k : Nat} (hk : k ≤ 2040)
    (hw : (k + 31) / 32 ≤ s.cmdIn.length) (x : Column) (y : Row) :
    (AmongFirst k s.seq.bx0 s.seq.by0 x y → (s.afterPixels k).pixel x y =
        (spriteByte s.cmdIn (x.toNat - s.seq.bx0.toNat)).getLsbD (y.toNat - s.seq.by0.toNat))
      ∧ (¬AmongFirst k s.seq.bx0 s.seq.by0 x y → (s.afterPixels k).pixel x y = s.pixel x y) := by
  induction k with
  | zero => exact ⟨fun h => by simp [AmongFirst] at h, fun _ => rfl⟩
  | succ k ih =>
    obtain ⟨drawn, others⟩ := ih (by omega) (by omega)
    have prog := progress_afterPixels h0 (k := k) (by omega) (by omega)
    rw [afterPixels_succ, prog.pixel_pixelStep hb, amongFirst_succ]
    by_cases current : x.toNat = s.seq.bx0.toNat + k / 8 ∧ y.toNat = s.seq.by0.toNat + k % 8
    · rw [if_pos current, current.1, current.2, Nat.add_sub_cancel_left, Nat.add_sub_cancel_left]
      exact ⟨fun _ => rfl, fun h => absurd (.inl ⟨rfl, rfl⟩) h⟩
    · rw [if_neg current]
      exact ⟨fun h => drawn (h.resolve_left current), fun h => others fun first => h (.inr first)⟩

/-- The pixels of a legal sprite whose payload is there (R73, R74). -/
theorem pixel_blitRun_of_payload {s : State} (h0 : s.seq.position = 0) (hs : s.storeStalls = false)
    (hb : s.seq.bill = false) (hw : spritePayloadWords s.seq.bw ≤ s.cmdIn.length) (x : Column) (y : Row) :
    (InSprite s.seq.bx0 s.seq.by0 s.seq.bw.toNat x y → s.blitRun.pixel x y =
        (spriteByte s.cmdIn (x.toNat - s.seq.bx0.toNat)).getLsbD (y.toNat - s.seq.by0.toNat))
      ∧ (¬InSprite s.seq.bx0 s.seq.by0 s.seq.bw.toNat x y → s.blitRun.pixel x y = s.pixel x y) := by
  obtain ⟨prog, e⟩ := blitRun_of_payload h0 (.inl hs) hw
  have hlt := s.seq.bw.isLt
  rw [e, ← amongFirst_columns]
  exact pixel_afterPixels h0 hb (by omega) prog.enough x y

/-- The pixels of a legal sprite that holds for its payload: the columns whose word has come (R77). -/
theorem pixel_blitRun_of_short {s : State} (h0 : s.seq.position = 0) (hs : s.storeStalls = false)
    (hb : s.seq.bill = false) (hw : s.cmdIn.length < spritePayloadWords s.seq.bw) (x : Column) (y : Row) :
    (InSprite s.seq.bx0 s.seq.by0 (4 * s.cmdIn.length) x y → s.blitRun.pixel x y =
        (spriteByte s.cmdIn (x.toNat - s.seq.bx0.toNat)).getLsbD (y.toNat - s.seq.by0.toNat))
      ∧ (¬InSprite s.seq.bx0 s.seq.by0 (4 * s.cmdIn.length) x y → s.blitRun.pixel x y = s.pixel x y) := by
  obtain ⟨prog, e⟩ := blitRun_of_short h0 (.inl hs) hw
  have hlt := s.seq.bw.isLt
  rw [spritePayloadWords] at hw
  rw [e, ← amongFirst_columns, show 8 * (4 * s.cmdIn.length) = 32 * s.cmdIn.length by omega]
  exact pixel_afterPixels h0 hb (by omega) prog.enough x y

/-- Settles O24: the run holds after the columns of the presented words, and a turn from there with no more words is the
same run. -/
theorem drawSpriteHoldsForPayload : Obligations.DrawSpriteHoldsForPayload := by
  intro x0 y0 w s hs hw
  have hu : (s.takeWord.blitStart x0 y0 w false).Unstalled := .inl hs
  obtain ⟨prog, e⟩ := blitRun_of_short rfl hu hw
  have frame := blitRun_frame_of_short rfl hu hw
  have pixels := pixel_blitRun_of_short (s := s.takeWord.blitStart x0 y0 w false) rfl hs rfl hw
  have hcmd : (s.takeWord.blitStart x0 y0 w false).blitRun.cmdIn = [] := congrArg State.cmdIn frame
  have hpos : (s.takeWord.blitStart x0 y0 w false).blitRun.seq.position = 32 * s.cmdIn.tail.length := by
    rw [e]
    exact prog.position
  refine ⟨_, exec_drawSprite s x0 y0 w, congrArg State.phase frame, hcmd, ?count, ?column, ?row,
    fun x y => (pixels x y).1, fun x y => (pixels x y).2, fun hi hr ho => ?holds⟩
  case count =>
    rw [← Nat.add_assoc]
    exact congrArg State.cp frame
  case column =>
    rw [position_column, hpos]
    omega
  case row =>
    apply BitVec.eq_of_toNat_eq
    rw [position_row, hpos]
    exact Nat.mod_eq_zero_of_dvd ⟨4 * s.cmdIn.tail.length, by omega⟩
  case holds =>
    have late := step_late rfl hu hw hi hr ho rfl []
    rw [State.presented, List.append_nil] at late
    rw [← hcmd] at late
    exact late

/-! The views. -/

theorem byteResponse_stripe_getLsbD (s : State) (c : Column) (st : StripeIx) {b : Nat} (hb : b < 8) :
    (byteResponse (s.stripe c st)).getLsbD b = s.pixel c (stripeRow st b) := by
  rw [byteResponse_getLsbD _ hb, stripe_getLsbD_eq_pixel s c st hb]

/-- Settles O30: each command's effect is one on the pixels, and a response is read from the pixels. -/
theorem viewsAreCoherent : Obligations.ViewsAreCoherent := by
  refine ⟨fun c st data b s hs hb => ?writeStripe, fun x y v s hs => ?setPixel, fun x0 y0 w s hs hw => ?drawSprite⟩
  case writeStripe =>
    refine ⟨_, _, exec_writeStripe hs c st data, exec_getPixel (by exact hs) c (stripeRow st b), ?_⟩
    have pixel : (s.stripeWrite c st data).takeWord.pixel c (stripeRow st b) = data.getLsbD b := by
      rw [← stripe_getLsbD_eq_pixel _ _ _ hb]
      exact congrArg (BitVec.getLsbD · b) (stripe_setStripe_same s.fb c st data)
    rw [takeWord_rq, answerPixel_rq, pixel, pixelResponse_eq_ite]
    rfl
  case setPixel =>
    refine ⟨_, _, _, exec_setPixel hs x y v, exec_readStripe (by exact hs) x (rowStripe y), rfl, ?_⟩
    rw [byteResponse_getLsbD _ (Nat.mod_lt _ (by decide)), stripeRead_byte, ← pixel_eq_stripe_getLsbD]
    exact (pixel_pixelWrite s x x y y v).trans (if_pos ⟨rfl, rfl⟩)
  case drawSprite =>
    refine ⟨_, exec_drawSprite s x0 y0 w, fun c st => ?_⟩
    have frame := blitRun_frame_of_payload (s := s.takeWord.blitStart x0 y0 w false) rfl (.inl hs) hw
    have answers : StoreAnswers (s.takeWord.blitStart x0 y0 w false).blitRun := (congrArg State.storeStalls frame).trans hs
    have rq : (s.takeWord.blitStart x0 y0 w false).blitRun.rq = s.rq := (congrArg State.rq frame :)
    refine ⟨_, _, exec_readStripe answers c st, by rw [takeWord_rq, answerStripe_rq, rq], fun b hb => ?_⟩
    rw [byteResponse_stripe_getLsbD _ c st hb, ← stripeRow_toNat st hb]
    exact pixel_blitRun_of_payload (s := s.takeWord.blitStart x0 y0 w false) rfl hs rfl hw c (stripeRow st b)

end Sys2Proof.Machine
end

section
/-! The sequencer and the pseudocode of R69 side by side (R22, R69, R71): the pseudocode's two loops are one loop over the
pixels, and each of its passes does what the sequencer does with that pixel, the latches apart. -/

namespace Sys2Proof.Machine

open Claims

/-! The pseudocode as one loop over the pixels. -/

/-- The pseudocode has taken the payload word that pixel `k` calls for. -/
def pseudoLoaded (s : State) (k : Nat) : State := if k % 32 = 0 then s.takePayload (s.cmdIn.headD 0#32) else s

theorem pseudoLoaded_of_due {k : Nat} (h : k % 32 = 0) (s : State) :
    pseudoLoaded s k = s.takePayload (s.cmdIn.headD 0#32) := if_pos h

theorem pseudoLoaded_of_not_due {k : Nat} (h : k % 32 ≠ 0) (s : State) : pseudoLoaded s k = s := if_neg h

/-- The pseudocode's pass for pixel `k`, counted over the columns: row `k mod 8` of column `k / 8`. -/
def pseudoStep (x0 : Column) (y0 : Row) (s : State) (k : Nat) : State :=
  pseudoPixel x0 y0 (payloadByte (pseudoLoaded s k).seq.pay (k / 8 % 4)) (k / 8) (pseudoLoaded s k) (k % 8)

theorem pseudoPixel_pay (x0 : Column) (y0 : Row) (b : Byte) (i : Nat) (s : State) (j : Nat) :
    (pseudoPixel x0 y0 b i s j).seq.pay = s.seq.pay := by
  rw [pseudoPixel]
  split <;> rfl

theorem foldl_pseudoPixel_pay (x0 : Column) (y0 : Row) (b : Byte) (i : Nat) (js : List Nat) (s : State) :
    (js.foldl (pseudoPixel x0 y0 b i) s).seq.pay = s.seq.pay := by
  induction js generalizing s with
  | nil => rfl
  | cons j js ih => rw [List.foldl_cons, ih, pseudoPixel_pay]

/-- A column of the pseudocode is its eight pixels; only before the first can a payload word be due. -/
theorem pseudoColumn_eq_foldl (x0 : Column) (y0 : Row) (s : State) (i : Nat) :
    pseudoColumn x0 y0 s i = (List.range 8).foldl (fun t j => pseudoStep x0 y0 t (8 * i + j)) s := by
  have rows (m : Nat) (hm : m < 8) :
      (List.range (m + 1)).foldl (pseudoPixel x0 y0 (payloadByte (pseudoLoaded s (8 * i)).seq.pay (i % 4)) i)
          (pseudoLoaded s (8 * i))
        = (List.range (m + 1)).foldl (fun t j => pseudoStep x0 y0 t (8 * i + j)) s := by
    induction m with
    | zero => simp [pseudoStep]
    | succ m ih =>
      have hcol : (8 * i + (m + 1)) / 8 = i := by omega
      have hrow : (8 * i + (m + 1)) % 8 = m + 1 := by omega
      have hdue : (8 * i + (m + 1)) % 32 ≠ 0 := by omega
      rw [List.range_succ, List.foldl_append, List.foldl_append, ← ih (by omega), List.foldl_cons, List.foldl_nil,
        List.foldl_cons, List.foldl_nil, pseudoStep, pseudoLoaded_of_not_due hdue, hcol, hrow, foldl_pseudoPixel_pay]
  have hdue : 8 * i % 32 = 0 ↔ i % 4 = 0 := by omega
  rw [← rows 7 (by decide)]
  simp only [pseudoColumn, pseudoLoaded, hdue]
  rfl

theorem pseudoDrawSprite_eq_foldl (x0 : Column) (y0 : Row) (w : BitVec 8) (s : State) :
    pseudoDrawSprite x0 y0 w s = (List.range (8 * w.toNat)).foldl (pseudoStep x0 y0) s.takeWord := by
  rw [pseudoDrawSprite]
  induction w.toNat with
  | zero => rfl
  | succ n ih =>
    rw [List.range_succ, List.foldl_append, ih, Nat.mul_succ, List.range_add, List.foldl_append, List.foldl_map,
      List.foldl_cons, List.foldl_nil, pseudoColumn_eq_foldl]

/-! The simulation. -/

/-- The pseudocode's state `b` is the sequencer's `a`, but for the phase `p` that it never changes and for the latches, of
which it has the payload word. -/
def Refines (p : Phase) (a b : State) : Prop := ∃ q : Latches, q.pay = a.seq.pay ∧ b = { a with seq := q, phase := p }

theorem refines_loaded {p : Phase} {s t b : State} {k : Nat} (h : Progress s k t) (sim : Refines p t b) :
    Refines p t.loaded (pseudoLoaded b k) := by
  obtain ⟨q, hq, rfl⟩ := sim
  cases hd : t.payloadDue with
  | true =>
    rw [loaded_of_due hd, pseudoLoaded_of_due (h.due_iff.mp hd)]
    exact ⟨{ q with pay := t.cmdIn.headD 0#32 }, rfl, rfl⟩
  | false =>
    rw [loaded_of_not_due hd, pseudoLoaded_of_not_due fun hk => by simp [h.due_iff.mpr hk] at hd]
    exact ⟨q, hq, rfl⟩

theorem refines_pixelWrite {p : Phase} {a b : State} (sim : Refines p a b) (x : Column) (y : Row) (v : Bool) :
    Refines p (a.pixelWrite x y v) (b.pixelWrite x y v) := by
  obtain ⟨q, hq, rfl⟩ := sim
  exact ⟨{ q with rmw := a.stripe x (pixelStripe y) }, hq, rfl⟩

theorem refines_nextPixel {p : Phase} {a b : State} (sim : Refines p a b) : Refines p a.nextPixel b := sim

theorem refines_drawPixel {p : Phase} {a b : State} (hb : a.seq.bill = false) (sim : Refines p a b) :
    Refines p a.drawPixel
      (pseudoPixel a.seq.bx0 a.seq.by0 (payloadByte b.seq.pay (a.seq.bi.toNat % 4)) a.seq.bi.toNat b a.seq.bj.toNat) := by
  have value : (payloadByte b.seq.pay (a.seq.bi.toNat % 4)).getLsbD a.seq.bj.toNat = a.seq.pixelValue := by
    obtain ⟨q, hq, rfl⟩ := sim
    rw [hq]
    rfl
  by_cases h : a.seq.OnScreen
  · rw [drawPixel_of_onScreen hb h, pseudoPixel, if_pos (show _ ∧ _ from h), value]
    exact refines_pixelWrite sim _ _ _
  · rw [drawPixel_of_offScreen hb h, pseudoPixel, if_neg (show ¬(_ ∧ _) from h)]
    obtain ⟨q, hq, rfl⟩ := sim
    exact ⟨q, hq, rfl⟩

theorem refines_pixelStep {p : Phase} {s t b : State} {k : Nat} (h : Progress s k t) (hb : s.seq.bill = false)
    (sim : Refines p t b) : Refines p t.pixelStep (pseudoStep s.seq.bx0 s.seq.by0 b k) := by
  have same := (loaded_frame t).2
  have hx : t.loaded.seq.bx0 = s.seq.bx0 := (congrArg Latches.bx0 same).trans h.bx0
  have hy : t.loaded.seq.by0 = s.seq.by0 := (congrArg Latches.by0 same).trans h.by0
  have hbill : t.loaded.seq.bill = false := (congrArg Latches.bill same).trans (h.bill.trans hb)
  have drawn := refines_drawPixel hbill (refines_loaded h sim)
  rw [position_column, position_row, h.loaded_position, hx, hy] at drawn
  exact refines_nextPixel drawn

theorem refines_afterPixels {s : State} (h0 : s.seq.position = 0) (hb : s.seq.bill = false) {p : Phase} {b : State}
    (sim : Refines p s b) {k : Nat} (hk : k ≤ 2040) (hw : (k + 31) / 32 ≤ s.cmdIn.length) :
    Refines p (s.afterPixels k) ((List.range k).foldl (pseudoStep s.seq.bx0 s.seq.by0) b) := by
  induction k with
  | zero => exact sim
  | succ k ih =>
    rw [afterPixels_succ, List.range_succ, List.foldl_append, List.foldl_cons, List.foldl_nil]
    exact refines_pixelStep (progress_afterPixels h0 (by omega) (by omega)) hb (ih (by omega) (by omega))

/-- Settles O21: the simulation, from the header to the last pixel. -/
theorem blitterRefinesPseudocode : Obligations.BlitterRefinesPseudocode := by
  intro x0 y0 w s hs hw
  obtain ⟨prog, e⟩ := blitRun_of_payload (s := s.takeWord.blitStart x0 y0 w false) rfl (.inl hs) hw
  have hlt := w.isLt
  have sim := refines_afterPixels (s := s.takeWord.blitStart x0 y0 w false) (p := s.phase) (b := s.takeWord) rfl rfl
    ⟨s.seq, rfl, rfl⟩ (k := 8 * w.toNat) (by omega) prog.enough
  obtain ⟨q, -, pseudo⟩ := sim
  refine ⟨_, exec_drawSprite s x0 y0 w, congrArg State.phase e, ?_⟩
  rw [e, pseudoDrawSprite_eq_foldl]
  exact congrArg (fun t : State => { t with seq := s.seq }) pseudo.symm

/-! The first pixel under a stripe store that stalls (R13, R108). -/

/-- Settles O40: a one-word command's access is outstanding, and so is the read of a sprite's first pixel, which is always
on the screen. -/
theorem stalledAccessIsOutstanding : Obligations.StalledAccessIsOutstanding := by
  refine ⟨fun i a s hs ha => exec_stalled hs ha, fun x0 y0 w s hs hw hne => ?_⟩
  obtain ⟨p, rest, hc⟩ := List.exists_cons_of_ne_nil hne
  obtain ⟨n, hn⟩ : ∃ n, 8 * w.toNat = n + 1 := ⟨8 * w.toNat - 1, by omega⟩
  have stalls : ((s.takeWord.blitStart x0 y0 w false).takePayload p).pixelStalls = true :=
    (pixelStalls_iff _).mpr ⟨hs, rfl, x0.isLt, y0.isLt⟩
  have run : (s.takeWord.blitStart x0 y0 w false).blitRun =
      ((s.takeWord.blitStart x0 y0 w false).takePayload p).awaitPixel := by
    have left : (s.takeWord.blitStart x0 y0 w false).seq.pixelsLeft = n + 1 := hn
    rw [State.blitRun, left, blitLoop_load_wait rfl hc stalls]
  have access : ((s.takeWord.blitStart x0 y0 w false).takePayload p).awaitPixel.outstanding =
      some (.pixelRead x0 y0 ((spriteByte s.cmdIn.tail 0).getLsbD 0)) := by
    rw [awaitPixel_outstanding, hc]
    simp [Latches.pixelValue, spriteByte]
  refine ⟨_, exec_drawSprite s x0 y0 w, ?_⟩
  rw [run, ← access]
  rfl

end Sys2Proof.Machine
end

section
/-! STATUS over a turn of PSB (R16, R17, R72, R82, R83, R88): what changes a flag, and that no operation of a turn but the
response of READ_STATUS depends on one (R18). -/

namespace Sys2Proof.Machine

open Claims

/-! What changes a flag. -/

/-- The sprite that the latches hold is drawn and has a pixel off the screen (R72). -/
def Latches.Overhanging (q : Latches) : Prop := q.bill = false ∧ Overhangs q.bx0 q.by0 q.bw

/-- A pixel that is off the screen is one of a sprite that overhangs. -/
theorem overhanging_of_offScreen {q : Latches} (hleft : 0 < q.pixelsLeft) (hb : q.bill = false) (h : ¬q.OnScreen) :
    q.Overhanging := by
  have hcol := position_column q
  have hj := q.bj.isLt
  rw [Latches.pixelsLeft_eq] at hleft
  rw [Latches.OnScreen] at h
  refine ⟨hb, by omega, ?_⟩
  omega

theorem pixelsLeft_nextPixel {s : State} {n : Nat} (h : s.seq.pixelsLeft = n + 1) : s.nextPixel.seq.pixelsLeft = n := by
  have hw := s.seq.bw.isLt
  have hcol := position_column s.seq
  rw [Latches.pixelsLeft_eq] at h ⊢
  rw [position_nextPixel s (by omega), nextPixel_bw]
  omega

/-- On the way of a run from `s`: `n` pixels are to go, the header's latches stand, and OOR is set, if at all, for a pixel
off the screen. -/
structure OorOnWay (s : State) (n : Nat) (t : State) : Prop where
  left : t.seq.pixelsLeft = n
  header : t.seq.Overhanging → s.seq.Overhanging
  status : t.status = s.status ∨ (s.seq.Overhanging ∧ t.status = ⟨s.status.ill, true⟩)

theorem OorOnWay.draw {s t : State} {n : Nat} (h : OorOnWay s (n + 1) t) : OorOnWay s n t.drawPixel.nextPixel := by
  have latches := (drawPixel_frame t).2.2
  have left : t.drawPixel.seq.pixelsLeft = n + 1 := (congrArg Latches.pixelsLeft latches).trans h.left
  have header : t.drawPixel.seq.Overhanging → s.seq.Overhanging := fun overhang =>
    h.header ((congrArg Latches.Overhanging latches).mp overhang)
  refine ⟨pixelsLeft_nextPixel left, header, ?_⟩
  rw [nextPixel_status]
  rcases drawPixel_cases t with ⟨-, e⟩ | ⟨-, -, -, e⟩ | ⟨hb, off, e⟩ <;> rw [e]
  · exact h.status
  · exact h.status
  · have overhang := h.header (overhanging_of_offScreen (by rw [h.left]; exact Nat.succ_pos n) hb off)
    refine .inr ⟨overhang, ?_⟩
    rcases h.status with e | ⟨-, e⟩ <;> rw [raiseOor_status, e]

/-- A run of the sequencer sets OOR only for a sprite that overhangs, and does nothing else to STATUS (R72, R83). -/
theorem blitRun_status (s : State) :
    s.blitRun.status = s.status ∨ (s.seq.Overhanging ∧ s.blitRun.status = ⟨s.status.ill, true⟩) :=
  blitLoop_induct (P := OorOnWay s)
    (Q := fun t => t.status = s.status ∨ (s.seq.Overhanging ∧ t.status = ⟨s.status.ill, true⟩))
    (fun _ h => h.status) (fun _ _ h _ _ => h.status)
    (fun _ t w _ h _ _ _ => OorOnWay.draw (t := t.takePayload w) ⟨h.left, h.header, h.status⟩) (fun _ _ h _ _ => h.draw)
    (fun _ _ _ _ h _ _ _ => h.status) (fun _ _ h _ _ => h.status) _ s ⟨rfl, id, .inl rfl⟩

/-- The completion of an access leaves STATUS, the phase and the sprite's header alone. -/
theorem completeAccess_status (s : State) (a : PendingAccess) :
    (s.completeAccess a).status = s.status ∧ (s.completeAccess a).phase = s.phase :=
  completeAccess_keeps (P := fun t => t.status = s.status ∧ t.phase = s.phase) (fun _ _ h => h) (fun _ _ h => h)
    (fun _ _ _ h => h) (fun _ _ _ _ h => h) (fun _ _ h => h) ⟨rfl, rfl⟩ a

theorem pixelDone_overhanging (s : State) : s.pixelDone.seq.Overhanging ↔ s.seq.Overhanging := by
  cases hp : s.phase with
  | idle => rw [pixelDone_seq_of_idle hp]
  | blit =>
    rw [pixelDone_seq_of_blit hp]
    exact Iff.rfl

theorem completeAccess_overhanging (s : State) (a : PendingAccess) :
    (s.completeAccess a).seq.Overhanging ↔ s.seq.Overhanging := by
  cases a with
  | readStripe c st => exact Iff.rfl
  | writeStripe c st v => exact Iff.rfl
  | getPixel x y => exact Iff.rfl
  | pixelRead x y v => exact Iff.rfl
  | pixelWrite x y v => exact pixelDone_overhanging _

theorem completeSecond_status (s : State) : s.completeSecond.status = s.status ∧ s.completeSecond.phase = s.phase
    ∧ (s.completeSecond.seq.Overhanging ↔ s.seq.Overhanging) := by
  rw [State.completeSecond]
  split
  · exact ⟨rfl, rfl, Iff.rfl⟩
  · obtain ⟨status, phase⟩ := completeAccess_status s ‹_›
    exact ⟨status, phase, completeAccess_overhanging s _⟩

/-- PSB is at a command boundary where it takes the header `cw` in its turn (R11, R12, R13, R51). -/
def State.HeaderNext (s : State) (cw : Word) : Prop :=
  s.rst = false ∧ s.phase = .idle ∧ s.outstanding = none ∧ s.rq.length < Config.rspDepth ∧ ∃ rest, s.cmdIn = cw :: rest

/-- What one turn of PSB from `s` to `t` does to STATUS, and by what. -/
inductive StatusTurn (s t : State) : Prop where
  | kept (h : t.status = s.status)
  | cleared (hn : s.HeaderNext 0x70000000#32) (h : t.status = ⟨false, false⟩)
  | illegal (cw : Word) (hn : s.HeaderNext cw) (hd : ∀ i, decode cw ≠ .ok i) (h : t.status = ⟨true, s.status.oor⟩)
      (ht : t.trace = s.trace)
  | drawn (cw : Word) (x0 : Column) (y0 : Row) (w : BitVec 8) (hn : s.HeaderNext cw)
      (hd : decode cw = .ok (.drawSprite x0 y0 w)) (overhang : Overhangs x0 y0 w) (h : t.status = ⟨s.status.ill, true⟩)
  | resumed (hp : s.phase = .blit) (overhang : s.seq.Overhanging) (h : t.status = ⟨s.status.ill, true⟩)

/-- The schedule has no part in it. -/
theorem StatusTurn.of_scheduled {s t : State} {later : List Input} (h : StatusTurn { s with inputs := later } t) :
    StatusTurn s t := by
  cases h with
  | kept h => exact .kept h
  | cleared hn h => exact .cleared hn h
  | illegal cw hn hd h ht => exact .illegal cw hn hd h ht
  | drawn cw x0 y0 w hn hd overhang h => exact .drawn cw x0 y0 w hn hd overhang h
  | resumed hp overhang h => exact .resumed hp overhang h

theorem finishAccess_statusTurn (s : State) (a : PendingAccess) : StatusTurn s (s.finishAccess a) := by
  obtain ⟨status₁, phase₁⟩ := completeAccess_status s a
  obtain ⟨status₂, phase₂, overhang₂⟩ := completeSecond_status (s.completeAccess a)
  rcases finishAccess_cases s a with ⟨-, e⟩ | ⟨hp, e⟩
  · exact .kept (by rw [e, status₂, status₁])
  · rcases blitRun_status (s.completeAccess a).completeSecond with e' | ⟨overhang, e'⟩
    · exact .kept (by rw [e, e', status₂, status₁])
    · exact .resumed (by rw [← phase₁, ← phase₂, hp]) ((completeAccess_overhanging s a).mp (overhang₂.mp overhang))
        (by rw [e, e', status₂, status₁])

theorem exec_statusTurn {s t : State} {cw : Word} (hn : s.HeaderNext cw) {i : Instr} (hd : decode cw = .ok i)
    (ht : exec i s = .next t) : StatusTurn s t := by
  rcases exec_cases i s with ⟨-, a, -, e⟩ | ⟨-, x, y, v, -, e⟩ | ⟨-, x, y, -, e⟩ | ⟨-, c, st, -, e⟩
    | ⟨-, c, st, v, -, e⟩ | ⟨x0, y0, w, rfl, e⟩ | ⟨-, e⟩ | ⟨rfl, e⟩ <;> rw [e] at ht <;> cases ht
  · exact .kept rfl
  · exact .kept rfl
  · exact .kept rfl
  · exact .kept rfl
  · exact .kept rfl
  · rcases blitRun_status (s.takeWord.blitStart x0 y0 w false) with e | ⟨⟨-, overhang⟩, e⟩
    · exact .kept e
    · exact .drawn cw x0 y0 w hn hd overhang e
  · exact .kept rfl
  · rw [eq_of_decode_clearStatus hd] at hn
    exact .cleared hn rfl

theorem illegalHeader_statusTurn {s : State} {cw : Word} (hn : s.HeaderNext cw) {why : Reject}
    (hd : decode cw = .error why) : StatusTurn s (s.illegalHeader cw why) := by
  have named : ∀ i, decode cw ≠ .ok i := fun i h => by simp [hd] at h
  rcases illegalHeader_cases s cw why with ⟨-, e⟩ | ⟨w, -, e⟩ <;> rw [e]
  · exact .illegal cw hn named rfl rfl
  · obtain ⟨-, trace, status⟩ := blitLoop_discards _ (s.raiseIll.takeWord.blitStart (fieldX cw) (fieldY cw) w true) rfl
    exact .illegal cw hn named status trace

theorem psbStep_statusTurn {s t : State} (ht : s.psbStep = .next t) : StatusTurn s t := by
  rcases psbStep_cases s with ⟨e, -⟩ | ⟨-, -, a, -, e⟩ | ⟨-, -, hp, e⟩
    | ⟨hr, ho, hp, hq, cw, rest, hc, ⟨i, hd, e⟩ | ⟨why, hd, e⟩⟩ <;> rw [e] at ht
  · cases ht
    exact .kept rfl
  · cases ht
    exact finishAccess_statusTurn s a
  · cases ht
    rcases blitRun_status s with e | ⟨overhang, e⟩
    · exact .kept e
    · exact .resumed hp overhang e
  · exact exec_statusTurn ⟨hr, hp, ho, (rqHasRoom_iff s).mp hq, rest, hc⟩ hd ht
  · cases ht
    exact illegalHeader_statusTurn ⟨hr, hp, ho, (rqHasRoom_iff s).mp hq, rest, hc⟩ hd

/-- What one step of the machine does to STATUS: PSB's turn, a reset, or nothing. -/
theorem step_status {s t : State} (ht : step s = .next t) :
    (PsbMoves s ∧ StatusTurn s t) ∨ (ResetMoves s ∧ t.status = ⟨false, false⟩) ∨ t.status = s.status := by
  rcases step_cases s with ⟨hi, e⟩ | ⟨later, hi, e⟩ | ⟨w, later, -, e⟩ | ⟨later, hi, hq, e⟩ | ⟨later, v, rest, -, -, e⟩
    | ⟨c, st, v, later, -, -, e⟩ | ⟨c, st, v, later, -, -, e⟩ | ⟨ev, k, later, hi, e⟩ | ⟨later, -, e⟩ | ⟨later, -, e⟩
    | ⟨later, -, -, e⟩ | ⟨later, a, -, -, e⟩ | ⟨later, -, e⟩ <;> rw [e] at ht
  · exact .inl ⟨.inl hi, psbStep_statusTurn ht⟩
  · exact .inl ⟨.inr (.inl ⟨later, hi⟩), (psbStep_statusTurn ht).of_scheduled⟩
  · cases ht
    exact .inr (.inr rfl)
  · exact .inl ⟨.inr (.inr ⟨hq, later, hi⟩), psbStep_statusTurn ht⟩
  · cases ht
    exact .inr (.inr rfl)
  · cases ht
    exact .inr (.inr rfl)
  · cases ht
  · cases ht
    exact .inr (.inl ⟨⟨ev, k, later, hi⟩, rfl⟩)
  · cases ht
    exact .inr (.inr rfl)
  · cases ht
    exact .inr (.inr rfl)
  · cases ht
    exact .inr (.inr rfl)
  · cases ht
    exact .inr (.inr (completeAccess_status _ a).1)
  · cases ht
    exact .inr (.inr rfl)

/-- Settles O35: by what the step does to STATUS. -/
theorem statusUpdateLaw : Obligations.StatusUpdateLaw := by
  intro s t ht
  rcases step_status ht with ⟨moves, turn⟩ | ⟨reset, e⟩ | e
  case inl =>
    cases turn with
    | kept e => simp +contextual [e]
    | cleared hn e =>
      have takes : Takes s 0x70000000#32 := ⟨moves, hn⟩
      simp [e, takes]
    | illegal cw hn hd e same =>
      refine ⟨by simp [e], by simp +contextual [e], fun _ _ => ⟨⟨cw, ⟨moves, hn⟩, hd⟩, ?_, by rw [e]⟩,
        by simp +contextual [e]⟩
      rw [newEvents, same, List.drop_length]
    | drawn cw x0 y0 w hn hd overhang e =>
      refine ⟨by simp +contextual [e], by simp [e], by simp +contextual [e], fun _ _ => ⟨by rw [e], .inl ?_⟩⟩
      exact ⟨cw, x0, y0, w, ⟨moves, hn⟩, hd, overhang⟩
    | resumed hp overhang e =>
      obtain ⟨hb, overhang⟩ := overhang
      refine ⟨by simp +contextual [e], by simp [e], by simp +contextual [e], fun _ _ => ⟨by rw [e], .inr ?_⟩⟩
      exact ⟨moves, hp, hb, overhang⟩
  case inr.inl => simp [e, reset]
  case inr.inr => simp +contextual [e]

end Sys2Proof.Machine
end

section
/-! The flags take no part in drawing (R18): every operation of a turn goes through alike whatever STATUS holds, but for the
response of READ_STATUS. -/

namespace Sys2Proof.Machine

open Claims

/-- The state with the flags `f`. -/
def State.withStatus (s : State) (f : Status) : State := { s with status := f }

/-- `t'` is `t` but for its flags. -/
def State.SameButFlags (t t' : State) : Prop := ∃ f, t' = t.withStatus f

theorem drawPixel_withStatus (s : State) (f : Status) : s.drawPixel.SameButFlags (s.withStatus f).drawPixel := by
  rcases drawPixel_cases s with ⟨hb, e⟩ | ⟨hb, hx, hy, e⟩ | ⟨hb, off, e⟩
  · rw [e, drawPixel_of_bill (by exact hb)]
    exact ⟨f, rfl⟩
  · rw [e, drawPixel_of_onScreen (by exact hb) (by exact ⟨hx, hy⟩)]
    exact ⟨f, rfl⟩
  · rw [e, drawPixel_of_offScreen (by exact hb) (by exact off)]
    exact ⟨f.setOor, rfl⟩

/-- The sequencer takes the same branch at every pixel whatever STATUS holds. -/
theorem blitLoop_withStatus (n : Nat) (s : State) (f : Status) : (blitLoop n s).SameButFlags (blitLoop n (s.withStatus f)) := by
  induction n generalizing s f with
  | zero => exact ⟨f, rfl⟩
  | succ n ih =>
    have goOn (u : State) : (blitLoop n u.drawPixel.nextPixel).SameButFlags
        (blitLoop n (u.withStatus f).drawPixel.nextPixel) := by
      obtain ⟨f', e⟩ := drawPixel_withStatus u f
      rw [e]
      exact ih u.drawPixel.nextPixel f'
    cases hd : s.payloadDue with
    | false =>
      cases hw : s.pixelStalls with
      | true =>
        rw [blitLoop_wait hd hw, blitLoop_wait (by exact hd) (by exact hw)]
        exact ⟨f, rfl⟩
      | false =>
        rw [blitLoop_draw hd hw, blitLoop_draw (by exact hd) (by exact hw)]
        exact goOn s
    | true =>
      cases hc : s.cmdIn with
      | nil =>
        rw [blitLoop_hold hd hc, blitLoop_hold (by exact hd) (by exact hc)]
        exact ⟨f, rfl⟩
      | cons w rest =>
        cases hw : (s.takePayload w).pixelStalls with
        | true =>
          rw [blitLoop_load_wait hd hc hw, blitLoop_load_wait (by exact hd) (by exact hc) (by exact hw)]
          exact ⟨f, rfl⟩
        | false =>
          rw [blitLoop_load hd hc hw, blitLoop_load (by exact hd) (by exact hc) (by exact hw)]
          exact goOn (s.takePayload w)

theorem blitRun_withStatus (s : State) (f : Status) : s.blitRun.SameButFlags (s.withStatus f).blitRun :=
  blitLoop_withStatus _ s f

/-! The stripe store. -/

theorem pixelDone_withStatus (s : State) (f : Status) : (s.withStatus f).pixelDone = s.pixelDone.withStatus f := by
  cases hp : s.phase with
  | idle =>
    rw [pixelDone_of_idle hp, pixelDone_of_idle (by exact hp)]
    rfl
  | blit =>
    rw [pixelDone_of_blit hp, pixelDone_of_blit (by exact hp)]
    rfl

theorem completeAccess_withStatus (s : State) (f : Status) (a : PendingAccess) :
    (s.withStatus f).completeAccess a = (s.completeAccess a).withStatus f := by
  cases a with
  | readStripe c st => rfl
  | writeStripe c st v => rfl
  | getPixel x y => rfl
  | pixelRead x y v => rfl
  | pixelWrite x y v => exact pixelDone_withStatus (s.pixelStore x y v) f

theorem completeSecond_withStatus (s : State) (f : Status) :
    (s.withStatus f).completeSecond = s.completeSecond.withStatus f := by
  cases ho : s.outstanding with
  | none => simp [State.completeSecond, State.withStatus, ho]
  | some a =>
    have e := completeAccess_withStatus s f a
    have ho' : (s.withStatus f).outstanding = some a := ho
    simp only [State.completeSecond, ho, ho', e]

theorem finishAccess_withStatus (s : State) (f : Status) (a : PendingAccess) :
    (s.finishAccess a).SameButFlags ((s.withStatus f).finishAccess a) := by
  have e : ((s.withStatus f).completeAccess a).completeSecond = ((s.completeAccess a).completeSecond).withStatus f := by
    rw [completeAccess_withStatus, completeSecond_withStatus]
  cases hp : (s.completeAccess a).completeSecond.phase with
  | idle =>
    have hp' : ((s.completeAccess a).completeSecond.withStatus f).phase = .idle := hp
    simp only [State.finishAccess, e, hp, hp']
    exact ⟨f, rfl⟩
  | blit =>
    have hp' : ((s.completeAccess a).completeSecond.withStatus f).phase = .blit := hp
    simp only [State.finishAccess, e, hp, hp']
    exact blitRun_withStatus _ f

/-! The commands. -/

theorem exec_withStatus {s t : State} {i : Instr} (hi : i ≠ .readStatus) (f : Status) (ht : exec i s = .next t) :
    ∃ t', exec i (s.withStatus f) = .next t' ∧ t.SameButFlags t' := by
  rcases exec_cases i s with ⟨hs, a, ha, e⟩ | ⟨hs, x, y, v, rfl, e⟩ | ⟨hs, x, y, rfl, e⟩ | ⟨hs, c, st, rfl, e⟩
    | ⟨hs, c, st, v, rfl, e⟩ | ⟨x0, y0, w, rfl, e⟩ | ⟨rfl, e⟩ | ⟨rfl, e⟩ <;> rw [e] at ht <;> cases ht
  · exact ⟨_, exec_stalled (by exact hs) ha, f, rfl⟩
  · exact ⟨_, exec_setPixel (by exact hs) x y v, f, rfl⟩
  · exact ⟨_, exec_getPixel (by exact hs) x y, f, rfl⟩
  · exact ⟨_, exec_readStripe (by exact hs) c st, f, rfl⟩
  · exact ⟨_, exec_writeStripe (by exact hs) c st v, f, rfl⟩
  · exact ⟨_, exec_drawSprite _ x0 y0 w, blitRun_withStatus (s.takeWord.blitStart x0 y0 w false) f⟩
  · exact absurd rfl hi
  · exact ⟨_, rfl, ⟨false, false⟩, rfl⟩

theorem illegalHeader_withStatus (s : State) (f : Status) (cw : Word) (why : Reject) :
    (s.illegalHeader cw why).SameButFlags ((s.withStatus f).illegalHeader cw why) := by
  cases why with
  | unassignedOpcode op => exact ⟨f.setIll, rfl⟩
  | reservedBits op => exact ⟨f.setIll, rfl⟩
  | illegalBlit w => exact blitRun_withStatus (s.raiseIll.takeWord.blitStart (fieldX cw) (fieldY cw) w true) f.setIll

/-- A turn of PSB under other flags ends in the same state but for the flags, and after a READ_STATUS but for the word that
it queues. -/
theorem psbStep_withStatus (s : State) (f : Status) :
    (∃ t t', s.psbStep = .next t ∧ (s.withStatus f).psbStep = .next t' ∧ t.SameButFlags t')
      ∨ ((∃ rest, s.cmdIn = 0x60000000#32 :: rest) ∧ s.psbStep = .next (s.respond s.status.word).takeWord
        ∧ (s.withStatus f).psbStep = .next ((s.withStatus f).respond f.word).takeWord) := by
  cases hr : s.rst with
  | true => exact .inl ⟨_, _, psbStep_of_rst hr, psbStep_of_rst (by exact hr), f, rfl⟩
  | false =>
  cases ho : s.outstanding with
  | some a =>
    refine .inl ⟨_, _, psbStep_of_outstanding hr ho, psbStep_of_outstanding (by exact hr) (by exact ho), ?_⟩
    rw [show (s.withStatus f).storeStalls = s.storeStalls from rfl]
    split
    · exact ⟨f, rfl⟩
    · exact finishAccess_withStatus s f a
  | none =>
  cases hp : s.phase with
  | blit =>
    exact .inl ⟨_, _, psbStep_of_blit hr ho hp, psbStep_of_blit (by exact hr) (by exact ho) (by exact hp),
      blitRun_withStatus s f⟩
  | idle =>
  rcases Nat.lt_or_ge s.rq.length Config.rspDepth with hq | hq
  case inr =>
    exact .inl ⟨_, _, psbStep_of_full hr hp ho hq, psbStep_of_full (by exact hr) (by exact hp) (by exact ho) hq, f, rfl⟩
  case inl =>
  cases hc : s.cmdIn with
  | nil =>
    exact .inl ⟨_, _, psbStep_of_no_word hr hp ho hc,
      psbStep_of_no_word (by exact hr) (by exact hp) (by exact ho) (by exact hc), f, rfl⟩
  | cons cw rest =>
    rw [psbStep_of_header hr hp ho hq hc,
      psbStep_of_header (s := s.withStatus f) (by exact hr) (by exact hp) (by exact ho) hq (by exact hc)]
    cases hd : decode cw with
    | error why =>
      rw [runHeader_of_error hd, runHeader_of_error hd]
      exact .inl ⟨_, _, rfl, rfl, illegalHeader_withStatus s f cw why⟩
    | ok i =>
      rw [runHeader_of_ok hd, runHeader_of_ok hd]
      by_cases hi : i = .readStatus
      · subst hi
        exact .inr ⟨⟨rest, by rw [eq_of_decode_readStatus hd]⟩, rfl, rfl⟩
      · obtain ⟨t, ht⟩ := exec_next i s
        obtain ⟨t', ht', same⟩ := exec_withStatus hi f ht
        exact .inl ⟨t, t', ht, ht', same⟩

/-- Settles O55: the turn goes through alike, and where READ_STATUS queues its word both queues have one more. -/
theorem flagsDoNotAffectDrawing : Obligations.FlagsDoNotAffectDrawing := by
  intro s f t t' ht ht'
  rcases psbStep_withStatus s f with ⟨u, u', e, e', f', same⟩ | ⟨⟨rest, hc⟩, e, e'⟩
  case inl =>
    cases e.symm.trans ht
    cases e'.symm.trans ht'
    rw [same]
    exact ⟨rfl, rfl, rfl, fun _ => rfl⟩
  case inr =>
    cases e.symm.trans ht
    cases e'.symm.trans ht'
    exact ⟨rfl, by simp [State.withStatus], by simp [State.withStatus], fun h => absurd hc (h rest)⟩

end Sys2Proof.Machine
end

section
/-! Bytes and words (R29, R48): a word is its four bytes, so the packing of sprite bytes into payload words and the bytes of
a byte-wide link are read back byte by byte. -/

namespace Sys2Proof

/-! The bytes of a word. -/

theorem payloadByte_toNat (w : Word) (k : Nat) : (payloadByte w k).toNat = w.toNat / 2 ^ (8 * k) % 256 := by
  rw [payloadByte, BitVec.extractLsb'_toNat, Nat.shiftRight_eq_div_pow]

theorem payloadByte_or (v w : Word) (k : Nat) : payloadByte (v ||| w) k = payloadByte v k ||| payloadByte w k :=
  BitVec.extractLsb'_or

/-- A byte placed at position `m` of a word is byte `m` of it, and the other bytes are 0. -/
theorem payloadByte_shiftLeft (b : Byte) (m : Nat) {k : Nat} (hk : k < 4) :
    payloadByte (b.setWidth 32 <<< (8 * m)) k = if k = m then b else 0#8 := by
  refine BitVec.eq_of_getLsbD_eq fun j hj => ?_
  have hbit : 8 * k + j < 32 := by omega
  simp only [payloadByte, BitVec.getLsbD_extractLsb', BitVec.getLsbD_shiftLeft, BitVec.getLsbD_setWidth, hj, hbit]
  rcases Nat.lt_trichotomy k m with h | rfl | h
  · have hlow : 8 * k + j < 8 * m := by omega
    simp [hlow, Nat.ne_of_lt h]
  · simp [show j < 32 by omega]
  · have hhigh : 8 ≤ 8 * k + j - 8 * m := by omega
    simp [BitVec.getLsbD_of_ge b _ hhigh, Nat.ne_of_gt h]

theorem payloadByte_packPayloadWord (b0 b1 b2 b3 : Byte) {k : Nat} (hk : k < 4) :
    payloadByte (packPayloadWord b0 b1 b2 b3) k = [b0, b1, b2, b3].getD k 0#8 := by
  have placed : packPayloadWord b0 b1 b2 b3 = b0.setWidth 32 <<< (8 * 0) ||| b1.setWidth 32 <<< (8 * 1)
      ||| b2.setWidth 32 <<< (8 * 2) ||| b3.setWidth 32 <<< (8 * 3) := by
    simp [packPayloadWord]
  simp only [placed, payloadByte_or, payloadByte_shiftLeft _ _ hk]
  interval_cases k <;> simp

/-- A word is its four bytes. -/
theorem word_ext {w w' : Word} (h : ∀ k < 4, payloadByte w k = payloadByte w' k) : w = w' := by
  refine BitVec.eq_of_getLsbD_eq fun j hj => ?_
  have bit (v : Word) : v.getLsbD j = (payloadByte v (j / 8)).getLsbD (j % 8) := by
    have hpos : 8 * (j / 8) + j % 8 = j := Nat.div_add_mod j 8
    have hrow : j % 8 < 8 := Nat.mod_lt _ (by decide)
    simp [payloadByte, hpos, hrow]
  rw [bit, bit, h (j / 8) (by omega)]

/-! Payload packing (R29, R48). -/

/-- The next four bytes, absent ones 0, are the next word. -/
theorem packPayload_cons (b : Byte) (bs : List Byte) : packPayload (b :: bs) =
    packPayloadWord b (bs.getD 0 0#8) (bs.getD 1 0#8) (bs.getD 2 0#8) :: packPayload (bs.drop 3) := by
  match bs with
  | [] => rfl
  | [_] => rfl
  | [_, _] => rfl
  | _ :: _ :: _ :: _ => rfl

theorem packPayload_length : ∀ bytes : List Byte, (packPayload bytes).length = (bytes.length + 3) / 4
  | [] => rfl
  | b :: bs => by
    have rest := packPayload_length (bs.drop 3)
    rw [List.length_drop] at rest
    rw [packPayload_cons, List.length_cons, List.length_cons, rest]
    omega
termination_by bytes => bytes.length
decreasing_by simp

/-- Column byte `i` of packed bytes is byte `i`, and 0 where there is none. -/
theorem spriteByte_packPayload : ∀ (bytes : List Byte) (i : Nat), spriteByte (packPayload bytes) i = bytes.getD i 0#8
  | [], i => by simp [packPayload, spriteByte, payloadByte]
  | b :: bs, i => by
    rw [packPayload_cons]
    rcases Nat.lt_or_ge i 4 with hi | hi
    · rw [spriteByte, Nat.div_eq_of_lt hi, Nat.mod_eq_of_lt hi, List.getD_cons_zero, payloadByte_packPayloadWord _ _ _ _ hi]
      interval_cases i <;> rfl
    · obtain ⟨j, rfl⟩ := Nat.exists_eq_add_of_le' hi
      have rest := spriteByte_packPayload (bs.drop 3) j
      rw [spriteByte, Nat.add_div_right _ (by decide), Nat.add_mod_right, List.getD_cons_succ, List.getD_cons_succ]
      rw [spriteByte] at rest
      rw [rest]
      simp [List.getD_eq_getElem?_getD, Nat.add_comm]
termination_by bytes => bytes.length
decreasing_by simp

/-- Settles O7: the words take four bytes each, and byte `i` is byte `i mod 4` of word `i / 4`. -/
theorem payloadPacking : Obligations.PayloadPacking := by
  intro bytes
  refine ⟨packPayload_length bytes, fun i _ => ?_⟩
  rw [← payloadByte_toNat, ← spriteByte_packPayload]
  exact ⟨rfl, rfl⟩

/-! A byte-wide link (R29). -/

theorem linkBytes_getD (w : Word) {k : Nat} (hk : k < 4) : (linkBytes w).getD k 0#8 = payloadByte w k := by
  interval_cases k <;> rfl

theorem packPayloadWord_linkBytes (w : Word) :
    packPayloadWord (w.extractLsb' 0 8) (w.extractLsb' 8 8) (w.extractLsb' 16 8) (w.extractLsb' 24 8) = w :=
  word_ext fun _ hk => (payloadByte_packPayloadWord _ _ _ _ hk).trans (linkBytes_getD w hk)

theorem wordsOfLink_flatMap_linkBytes (ws : List Word) : wordsOfLink (ws.flatMap linkBytes) = ws := by
  induction ws with
  | nil => rfl
  | cons w ws ih =>
    calc wordsOfLink ((w :: ws).flatMap linkBytes)
        = packPayloadWord (w.extractLsb' 0 8) (w.extractLsb' 8 8) (w.extractLsb' 16 8) (w.extractLsb' 24 8)
            :: wordsOfLink (ws.flatMap linkBytes) := rfl
      _ = w :: ws := by rw [packPayloadWord_linkBytes, ih]

/-- Settles O8: the four bytes sent are the bytes of the word, which they make up again. -/
theorem byteLinkRoundTrip : Obligations.ByteLinkRoundTrip :=
  ⟨wordsOfLink_flatMap_linkBytes, fun w k hk => by rw [linkBytes_getD w hk, payloadByte_toNat]⟩

end Sys2Proof
end

section
/-! The stripe port and its trace (R32, R35, R38, R103): what one access changes, and that the events a move adds to the
trace account for every change of the framebuffer and for every byte read. -/

namespace Sys2Proof.Machine

open Claims

/-! One access (R35). -/

/-- What every stripe holds after a stripe write. -/
theorem stripe_stripeWrite (s : State) (c c' : Column) (st st' : StripeIx) (v : Byte) :
    (s.stripeWrite c st v).stripe c' st' = if c' = c ∧ st' = st then v else s.stripe c' st' :=
  stripe_setStripe s.fb c c' st st' v

/-- Settles O13: a read is recorded and nothing else, a write puts its byte under the one key of its stripe. -/
theorem stripeAccessSideEffects : Obligations.StripeAccessSideEffects := fun s c st =>
  ⟨⟨rfl, rfl⟩, fun v => ⟨rfl, fun c' st' => stripe_stripeWrite s c c' st st' v⟩⟩

/-! Lists of events (R32, R38). -/

theorem readsLatest_append (m : Memory) (es es' : List StripeEvent) :
    m.readsLatest (es ++ es') ↔ m.readsLatest es ∧ (m.replay es).readsLatest es' := by
  induction es generalizing m with
  | nil => simp [Memory.readsLatest, Memory.replay]
  | cons e es ih =>
    cases e with
    | rd c st v => simp [Memory.readsLatest, Memory.replay, ih, and_assoc]
    | wr c st v => simp [Memory.readsLatest, Memory.replay, ih]

/-- The events by which `t` is later than `s` account for its framebuffer and for every byte read on the way. -/
def TraceExplains (s t : State) : Prop :=
  ∃ es, t.trace = s.trace ++ es ∧ t.fb = s.fb.replay es ∧ s.fb.readsLatest es

namespace TraceExplains

variable {s t : State}

theorem of_same (htrace : t.trace = s.trace) (hfb : t.fb = s.fb) : TraceExplains s t :=
  ⟨[], by rw [htrace, List.append_nil], hfb, trivial⟩

theorem trans {u : State} (h : TraceExplains s t) (h' : TraceExplains t u) : TraceExplains s u := by
  obtain ⟨es, trace, fb, reads⟩ := h
  obtain ⟨es', trace', fb', reads'⟩ := h'
  refine ⟨es ++ es', ?_, ?_, (readsLatest_append _ _ _).mpr ⟨reads, ?_⟩⟩
  · rw [trace', trace, List.append_assoc]
  · rw [fb', fb, replay_append]
  · rwa [← fb]

theorem read (h : TraceExplains s t) (c : Column) (st : StripeIx) :
    TraceExplains s (t.record (.rd c st (t.stripe c st))) :=
  h.trans ⟨[.rd c st (t.stripe c st)], rfl, rfl, rfl, trivial⟩

theorem write (h : TraceExplains s t) (c : Column) (st : StripeIx) (v : Byte) :
    TraceExplains s (t.stripeWrite c st v) :=
  h.trans ⟨[.wr c st v], rfl, rfl, trivial⟩

end TraceExplains

theorem psbStep_traceExplains {s t : State} (ht : s.psbStep = .next t) : TraceExplains s t :=
  psbStep_keeps (P := TraceExplains s) (fun _ h _ => h) (fun _ _ h => h) (fun _ _ h => h) (fun _ _ h => h)
    (fun _ c st h => h.read c st) (fun _ c st v h => h.write c st v) (fun _ _ h => h) (fun _ _ h => h) ht
    (.of_same rfl rfl)

theorem completeAccess_traceExplains (s : State) (a : PendingAccess) : TraceExplains s (s.completeAccess a) :=
  completeAccess_keeps (P := TraceExplains s) (fun _ _ h => h) (fun _ _ h => h) (fun _ c st h => h.read c st)
    (fun _ c st v h => h.write c st v) (fun _ _ h => h) (.of_same rfl rfl) a

/-- A cut-off turn keeps the first events of the whole turn, which explain what they leave (R99). -/
theorem abortedTurn_traceExplains (s : State) (events words : Nat) : TraceExplains s (s.abortedTurn events words) := by
  obtain ⟨t, ht⟩ := psbStep_next { s with storeStalls := false, cmdIn := s.cmdIn.take words }
  obtain ⟨es, trace, -, reads⟩ := psbStep_traceExplains ht
  have made : (stateAfter s ({ s with storeStalls := false, cmdIn := s.cmdIn.take words } : State).psbStep).trace.drop
      s.trace.length = es := by
    rw [ht, stateAfter, trace, List.drop_left]
  refine ⟨es.take events, ?_, ?_, ?_⟩
  · rw [State.abortedTurn, made]
  · rw [State.abortedTurn, made]
  · rw [← List.take_append_drop events es, readsLatest_append] at reads
    exact reads.1

/-- Settles O47: by the agent whose move it is. -/
theorem traceExplainsTheFramebuffer : Obligations.TraceExplainsTheFramebuffer := by
  intro s t notOther ht
  rcases step_cases s with ⟨-, e⟩ | ⟨later, -, e⟩ | ⟨w, later, -, e⟩ | ⟨later, -, -, e⟩ | ⟨later, v, rest, -, -, e⟩
    | ⟨c, st, v, later, hi, -, e⟩ | ⟨c, st, v, later, -, -, e⟩ | ⟨ev, k, later, -, e⟩ | ⟨later, -, e⟩ | ⟨later, -, e⟩
    | ⟨later, -, -, e⟩ | ⟨later, a, -, -, e⟩ | ⟨later, -, e⟩ <;> rw [e] at ht
  · exact psbStep_traceExplains ht
  · exact psbStep_traceExplains (s := { s with inputs := later }) ht
  · cases ht
    exact TraceExplains.of_same rfl rfl
  · exact psbStep_traceExplains ht
  · cases ht
    exact TraceExplains.of_same rfl rfl
  · exact absurd hi (notOther c st v later)
  · cases ht
  · cases ht
    exact abortedTurn_traceExplains { s with inputs := later } ev k
  · cases ht
    exact TraceExplains.of_same rfl rfl
  · cases ht
    exact TraceExplains.of_same rfl rfl
  · cases ht
    exact TraceExplains.of_same rfl rfl
  · cases ht
    exact completeAccess_traceExplains { s with inputs := later } a
  · cases ht
    exact TraceExplains.of_same rfl rfl

end Sys2Proof.Machine
end

section
/-! What holds, what stops and what does not (R39, R81, R87, R108): PSB's turn and every move but one answer a next state,
be it the same one; another writer in mid-command is refused. -/

namespace Sys2Proof.Machine

open Claims

/-- PSB's turn is a hold where reset is asserted, a stalled access is outstanding, or at a boundary RQ is full or no word
is there (R11, R12, R13, R97). -/
theorem psbStep_of_hold {s : State} (h : s.rst = true ∨ ((∃ a, s.outstanding = some a) ∧ s.storeStalls = true)
    ∨ (s.outstanding = none ∧ s.phase = .idle ∧ (s.rqHasRoom = false ∨ s.cmdIn = []))) : s.psbStep = .next s := by
  obtain ⟨noWord, -, stalled, reset⟩ := psbHoldsWithoutChange s
  rcases h with hr | ⟨⟨a, ha⟩, hs⟩ | ⟨ho, hp, hq | hc⟩
  · exact reset hr
  · exact stalled (by simp [ha]) hs
  · cases hr : s.rst <;> simp [State.psbStep, hr, ho, hp, hq]
  · exact noWord hp ho hc

theorem inCommand_eq_true_iff (s : State) : s.inCommand = true ↔ s.phase = .blit ∨ s.outstanding ≠ none := by
  rw [inCommand_iff, Option.ne_none_iff_exists']

theorem step_of_otherWrite {s : State} {c : Column} {st : StripeIx} {v : Byte} {later : List Input}
    (hi : s.inputs = .otherWrite c st v :: later) : step s =
      if s.inCommand then .refused .secondWriterDuringCommand
      else .next (({ s with inputs := later } : State).setStripe c st v) := step_of_input hi

/-- Settles O32: by the agent whose move it is. -/
theorem nothingStopsTheMachine : Obligations.NothingStopsTheMachine := by
  refine ⟨exec_next, fun s => ?_⟩
  rcases step_cases s with ⟨-, e⟩ | ⟨later, -, e⟩ | ⟨w, later, -, e⟩ | ⟨later, -, -, e⟩ | ⟨later, v, rest, -, -, e⟩
    | ⟨c, st, v, later, -, -, e⟩ | ⟨c, st, v, later, hi, busy, e⟩ | ⟨ev, k, later, -, e⟩ | ⟨later, -, e⟩
    | ⟨later, -, e⟩ | ⟨later, -, -, e⟩ | ⟨later, a, -, -, e⟩ | ⟨later, -, e⟩ <;> rw [e]
  · exact .inl (psbStep_next _)
  · exact .inl (psbStep_next _)
  · exact .inl ⟨_, rfl⟩
  · exact .inl (psbStep_next _)
  · exact .inl ⟨_, rfl⟩
  · exact .inl ⟨_, rfl⟩
  · exact .inr ⟨rfl, (inCommand_eq_true_iff s).mp busy, c, st, v, later, hi⟩
  all_goals exact .inl ⟨_, rfl⟩

/-- Settles O54: the move looks only at whether PSB is inside a command. -/
theorem otherWriterOnlyWhileIdle : Obligations.OtherWriterOnlyWhileIdle := by
  intro s c st v later hi
  rw [step_of_otherWrite hi]
  refine ⟨fun hp ho => ?idle, fun busy => ?busy⟩
  case idle =>
    rw [(inCommand_eq_false_iff s).mpr ⟨hp, ho⟩]
    exact ⟨_, rfl, fun c' st' => stripe_setStripe s.fb c c' st st' v, rfl⟩
  case busy => rw [(inCommand_eq_true_iff s).mpr busy, if_pos rfl]

end Sys2Proof.Machine
end

section
/-! The framebuffer takes no part in the commands (R42): every operation of a turn goes through alike whatever the stripes
hold, but for the bytes read and what is made of them. -/

namespace Sys2Proof.Machine

open Claims

/-- The state with other bytes: those of the framebuffer and of the latch `rmw`, the words queued in RQ, and the bytes of
the events recorded. -/
def State.withBytes (s : State) (m : Memory) (b : Byte) (q : List Word) (es : List StripeEvent) : State :=
  { s with fb := m, seq := { s.seq with rmw := b }, rq := q, trace := es }

/-- `t'` is `t` but for the bytes: RQ is as long, and the accesses recorded are the same. -/
def State.SameButBytes (t t' : State) : Prop := ∃ m b q es,
  t' = t.withBytes m b q es ∧ q.length = t.rq.length ∧ es.map access = t.trace.map access

namespace State.SameButBytes

variable {s s' : State}

theorem of_fb (s : State) (m : Memory) : s.SameButBytes { s with fb := m } :=
  ⟨m, s.seq.rmw, s.rq, s.trace, rfl, rfl, rfl⟩

theorem phase (h : s.SameButBytes s') : s'.phase = s.phase := by
  obtain ⟨m, b, q, es, rfl, -, -⟩ := h
  rfl

theorem outstanding (h : s.SameButBytes s') : s'.outstanding = s.outstanding := by
  obtain ⟨m, b, q, es, rfl, -, -⟩ := h
  rfl

theorem rqHasRoom (h : s.SameButBytes s') : s'.rqHasRoom = s.rqHasRoom := by
  obtain ⟨m, b, q, es, rfl, hq, -⟩ := h
  rw [Bool.eq_iff_iff, rqHasRoom_iff, rqHasRoom_iff, ← hq]
  exact Iff.rfl

/-- An operation that has no part in the bytes goes through alike. -/
theorem map (h : s.SameButBytes s') (f : State → State)
    (comm : ∀ m b q es, f (s.withBytes m b q es) = (f s).withBytes m b q es := by intros; rfl)
    (queue : (f s).rq = s.rq := by rfl) (trace : (f s).trace = s.trace := by rfl) : (f s).SameButBytes (f s') := by
  obtain ⟨m, b, q, es, rfl, hq, hes⟩ := h
  exact ⟨m, b, q, es, comm m b q es, by rwa [queue], by rwa [trace]⟩

theorem respond (h : s.SameButBytes s') (v v' : Word) : (s.respond v).SameButBytes (s'.respond v') := by
  obtain ⟨m, b, q, es, rfl, hq, hes⟩ := h
  exact ⟨m, b, q ++ [v'], es, rfl, by simp [hq], hes⟩

theorem latchRmw (h : s.SameButBytes s') (v v' : Byte) : (s.latchRmw v).SameButBytes (s'.latchRmw v') := by
  obtain ⟨m, b, q, es, rfl, hq, hes⟩ := h
  exact ⟨m, v', q, es, rfl, hq, hes⟩

/-- Only the byte of an event is different. -/
theorem record (h : s.SameButBytes s') {e e' : StripeEvent} (he : access e' = access e) :
    (s.record e).SameButBytes (s'.record e') := by
  obtain ⟨m, b, q, es, rfl, hq, hes⟩ := h
  exact ⟨m, b, q, es ++ [e'], rfl, hq, by simp [hes, he]⟩

theorem setStripe (h : s.SameButBytes s') (c : Column) (st : StripeIx) (v v' : Byte) :
    (s.setStripe c st v).SameButBytes (s'.setStripe c st v') := by
  obtain ⟨m, b, q, es, rfl, hq, hes⟩ := h
  exact ⟨m.setStripe c st v', b, q, es, rfl, hq, hes⟩

theorem stripeRead (h : s.SameButBytes s') (c : Column) (st : StripeIx) :
    (s.stripeRead c st).2.SameButBytes (s'.stripeRead c st).2 := h.record rfl

theorem stripeWrite (h : s.SameButBytes s') (c : Column) (st : StripeIx) (v v' : Byte) :
    (s.stripeWrite c st v).SameButBytes (s'.stripeWrite c st v') := (h.setStripe c st v v').record rfl

theorem pixelRead (h : s.SameButBytes s') (x : Column) (y : Row) : (s.pixelRead x y).SameButBytes (s'.pixelRead x y) :=
  (h.stripeRead x (pixelStripe y)).latchRmw _ _

theorem pixelWrite (h : s.SameButBytes s') (x : Column) (y : Row) (v : Bool) :
    (s.pixelWrite x y v).SameButBytes (s'.pixelWrite x y v) := (h.pixelRead x y).stripeWrite _ _ _ _

theorem answerStripe (h : s.SameButBytes s') (c : Column) (st : StripeIx) :
    (s.answerStripe c st).SameButBytes (s'.answerStripe c st) := (h.stripeRead c st).respond _ _

theorem answerPixel (h : s.SameButBytes s') (x : Column) (y : Row) :
    (s.answerPixel x y).SameButBytes (s'.answerPixel x y) := (h.stripeRead x (pixelStripe y)).respond _ _

/-! The sequencer. -/

theorem drawPixel (h : s.SameButBytes s') : s.drawPixel.SameButBytes s'.drawPixel := by
  have same := h
  obtain ⟨m, b, q, es, rfl, -, -⟩ := h
  rcases drawPixel_cases s with ⟨hb, e⟩ | ⟨hb, hx, hy, e⟩ | ⟨hb, off, e⟩ <;> rw [e]
  · rwa [drawPixel_of_bill (by exact hb)]
  · rw [drawPixel_of_onScreen (by exact hb) (by exact ⟨hx, hy⟩)]
    exact same.pixelWrite _ _ _
  · rw [drawPixel_of_offScreen (by exact hb) (by exact off)]
    exact same.map State.raiseOor

/-- The sequencer takes the same branch at every pixel whatever the stripes hold. -/
theorem loop (h : s.SameButBytes s') (n : Nat) : (blitLoop n s).SameButBytes (blitLoop n s') := by
  refine blitLoop_induct (P := fun k u => ∃ u', u.SameButBytes u' ∧ blitLoop n s' = blitLoop k u')
    (Q := fun t => t.SameButBytes (blitLoop n s')) ?done ?hold ?load ?draw ?loadWait ?wait n s ⟨s', h, rfl⟩
  case done =>
    rintro u ⟨u', same, e⟩
    rw [e]
    exact same.map ({ · with phase := .idle })
  case hold =>
    rintro k u ⟨u', same, e⟩ hd hc
    have held := same
    obtain ⟨m, b, q, es, rfl, -, -⟩ := same
    rwa [e, blitLoop_hold (by exact hd) (by exact hc)]
  case load =>
    rintro k u w rest ⟨u', same, e⟩ hd hc hw
    refine ⟨_, ((same.map (·.takePayload w)).drawPixel).map State.nextPixel, ?_⟩
    obtain ⟨m, b, q, es, rfl, -, -⟩ := same
    rw [e, blitLoop_load (by exact hd) (by exact hc) (by exact hw)]
  case draw =>
    rintro k u ⟨u', same, e⟩ hd hw
    refine ⟨_, same.drawPixel.map State.nextPixel, ?_⟩
    obtain ⟨m, b, q, es, rfl, -, -⟩ := same
    rw [e, blitLoop_draw (by exact hd) (by exact hw)]
  case loadWait =>
    rintro k u w rest ⟨u', same, e⟩ hd hc hw
    have waits := (same.map (·.takePayload w)).map State.awaitPixel
    obtain ⟨m, b, q, es, rfl, -, -⟩ := same
    rwa [e, blitLoop_load_wait (by exact hd) (by exact hc) (by exact hw)]
  case wait =>
    rintro k u ⟨u', same, e⟩ hd hw
    have waits := same.map State.awaitPixel
    obtain ⟨m, b, q, es, rfl, -, -⟩ := same
    rwa [e, blitLoop_wait (by exact hd) (by exact hw)]

theorem blitRun (h : s.SameButBytes s') : s.blitRun.SameButBytes s'.blitRun := by
  have run := h.loop s.seq.pixelsLeft
  obtain ⟨m, b, q, es, rfl, -, -⟩ := h
  exact run

/-! The stripe store. -/

theorem pixelDone (h : s.SameButBytes s') : s.pixelDone.SameButBytes s'.pixelDone := by
  rw [State.pixelDone, State.pixelDone, h.phase]
  split
  · exact h.map State.settle
  · exact h.map (·.settle.nextPixel)

theorem completeAccess (h : s.SameButBytes s') (a : PendingAccess) :
    (s.completeAccess a).SameButBytes (s'.completeAccess a) := by
  cases a with
  | readStripe c st => exact (h.answerStripe c st).map State.settle
  | writeStripe c st v => exact (h.stripeWrite c st v v).map State.settle
  | getPixel x y => exact (h.answerPixel x y).map State.settle
  | pixelRead x y v => exact (h.pixelRead x y).map (·.await _)
  | pixelWrite x y v => exact (h.stripeWrite x (pixelStripe y) _ _).pixelDone

theorem completeSecond (h : s.SameButBytes s') : s.completeSecond.SameButBytes s'.completeSecond := by
  rw [State.completeSecond, State.completeSecond, h.outstanding]
  split
  · exact h
  · exact h.completeAccess _

theorem finishAccess (h : s.SameButBytes s') (a : PendingAccess) : (s.finishAccess a).SameButBytes (s'.finishAccess a) := by
  have done := (h.completeAccess a).completeSecond
  simp only [State.finishAccess, done.phase]
  split
  · exact done
  · exact done.blitRun

/-! The commands. -/

theorem command (h : s.SameButBytes s') {i : Instr} {t : State} (ht : exec i s = .next t) :
    ∃ t', exec i s' = .next t' ∧ t.SameButBytes t' := by
  have same := h
  obtain ⟨m, b, q, es, rfl, -, -⟩ := h
  rcases exec_cases i s with ⟨hs, a, ha, e⟩ | ⟨hs, x, y, v, rfl, e⟩ | ⟨hs, x, y, rfl, e⟩ | ⟨hs, c, st, rfl, e⟩
    | ⟨hs, c, st, v, rfl, e⟩ | ⟨x0, y0, w, rfl, e⟩ | ⟨rfl, e⟩ | ⟨rfl, e⟩ <;> rw [e] at ht <;> cases ht
  · exact ⟨_, exec_stalled (by exact hs) ha, same.map (·.takeWord.await a)⟩
  · exact ⟨_, exec_setPixel (by exact hs) x y v, (same.pixelWrite x y v).map State.takeWord⟩
  · exact ⟨_, exec_getPixel (by exact hs) x y, (same.answerPixel x y).map State.takeWord⟩
  · exact ⟨_, exec_readStripe (by exact hs) c st, (same.answerStripe c st).map State.takeWord⟩
  · exact ⟨_, exec_writeStripe (by exact hs) c st v, (same.stripeWrite c st v v).map State.takeWord⟩
  · exact ⟨_, exec_drawSprite _ x0 y0 w, (same.map (·.takeWord.blitStart x0 y0 w false)).blitRun⟩
  · exact ⟨_, rfl, (same.respond _ _).map State.takeWord⟩
  · exact ⟨_, rfl, same.map (·.clearFlags.takeWord)⟩

theorem illegalHeader (h : s.SameButBytes s') (cw : Word) (why : Reject) :
    (s.illegalHeader cw why).SameButBytes (s'.illegalHeader cw why) := by
  cases why with
  | unassignedOpcode op => exact h.map (·.raiseIll.takeWord)
  | reservedBits op => exact h.map (·.raiseIll.takeWord)
  | illegalBlit w => exact (h.map (·.raiseIll.takeWord.blitStart (fieldX cw) (fieldY cw) w true)).blitRun

/-- A turn of PSB over another framebuffer ends in the same state but for the bytes. -/
theorem turn (h : s.SameButBytes s') : ∃ t t', s.psbStep = .next t ∧ s'.psbStep = .next t' ∧ t.SameButBytes t' := by
  have same := h
  have room := h.rqHasRoom
  obtain ⟨m, b, q, es, rfl, -, -⟩ := h
  rcases psbStep_cases s with ⟨e, hold⟩ | ⟨hr, hs, a, ha, e⟩ | ⟨hr, ho, hp, e⟩
    | ⟨hr, ho, hp, free, cw, rest, hc, header⟩
  · exact ⟨_, _, e, psbStep_of_hold (by rwa [room]), same⟩
  · refine ⟨_, _, e, psbStep_of_outstanding (by exact hr) (by exact ha), ?_⟩
    rw [if_neg (by simp [State.withBytes, hs])]
    exact same.finishAccess a
  · exact ⟨_, _, e, psbStep_of_blit (by exact hr) (by exact ho) (by exact hp), same.blitRun⟩
  · rw [psbStep_of_header (s := s.withBytes m b q es) hr hp ho ((rqHasRoom_iff _).mp (room.trans free)) hc]
    rcases header with ⟨i, hd, e⟩ | ⟨why, hd, e⟩
    · obtain ⟨t, ht⟩ := exec_next i s
      obtain ⟨t', ht', sameAfter⟩ := same.command ht
      exact ⟨t, t', e.trans ht, by rw [runHeader_of_ok hd, ht'], sameAfter⟩
    · exact ⟨_, _, e, runHeader_of_error hd _, same.illegalHeader cw why⟩

end State.SameButBytes

/-- Settles O56: the turns go through alike, and the accesses of the two traces are the same. -/
theorem framebufferNeverChangesTheCommands : Obligations.FramebufferNeverChangesTheCommands := by
  intro s m t t' ht ht'
  obtain ⟨u, u', e, e', same⟩ := (State.SameButBytes.of_fb s m).turn
  cases e.symm.trans ht
  cases e'.symm.trans ht'
  obtain ⟨m', b, q, es, rfl, hq, hes⟩ := same
  refine ⟨rfl, rfl, rfl, rfl, rfl, hq, rfl, ?_⟩
  rw [newEvents, newEvents, List.map_drop, List.map_drop, ← hes]
  rfl

end Sys2Proof.Machine
end

section
/-! The stripe store's waits make no difference (R43, R107, R108): where a turn has been kept waiting, the turn in which the
store answers goes on to what the turn would have come to without the wait. -/

namespace Sys2Proof.Machine

open Claims

/-- The state with a stripe store that answers at once from now on. -/
def State.answering (s : State) : State := { s with storeStalls := false }

/-- What PSB comes to from `t` once the store answers: the end of the command under way, or `t` where there is none. -/
def State.resumed (t : State) : Host.Outcome State Fault Refusal :=
  if t.inCommand then t.answering.psbStep else .next t.answering

section
variable {t : State}

theorem resumed_of_inCommand (h : t.inCommand = true) : t.resumed = t.answering.psbStep := if_pos h

theorem resumed_of_boundary (hp : t.phase = .idle) (ho : t.outstanding = none) : t.resumed = .next t.answering := by
  rw [State.resumed, (inCommand_eq_false_iff t).mpr ⟨hp, ho⟩, if_neg Bool.false_ne_true]

theorem resumed_of_blit (hr : t.rst = false) (ho : t.outstanding = none) (hp : t.phase = .blit) :
    t.resumed = .next t.answering.blitRun := by
  rw [resumed_of_inCommand ((inCommand_iff t).mpr (.inl hp))]
  exact psbStep_of_blit hr ho hp

theorem resumed_of_outstanding {a : PendingAccess} (hr : t.rst = false) (ho : t.outstanding = some a) :
    t.resumed = .next (t.answering.finishAccess a) := by
  rw [resumed_of_inCommand ((inCommand_iff t).mpr (.inr ⟨a, ho⟩))]
  exact psbStep_of_outstanding hr ho

end

/-! The access that is outstanding. -/

theorem settle_of_none {s : State} (h : s.outstanding = none) : s.settle = s := by
  rw [State.settle, ← h]

theorem completeSecond_of_none {s : State} (h : s.outstanding = none) : s.completeSecond = s := by
  simp [State.completeSecond, h]

theorem completeSecond_of_some {s : State} {a : PendingAccess} (h : s.outstanding = some a) :
    s.completeSecond = s.completeAccess a := by
  simp [State.completeSecond, h]

theorem completeAccess_completeSecond_phase (s : State) (a : PendingAccess) :
    (s.completeAccess a).completeSecond.phase = s.phase :=
  (completeSecond_status _).2.1.trans (completeAccess_status s a).2

theorem finishAccess_of_idle {s : State} (hp : s.phase = .idle) (a : PendingAccess) :
    s.finishAccess a = (s.completeAccess a).completeSecond := by
  simp only [State.finishAccess, completeAccess_completeSecond_phase, hp]

theorem finishAccess_of_blit {s : State} (hp : s.phase = .blit) (a : PendingAccess) :
    s.finishAccess a = (s.completeAccess a).completeSecond.blitRun := by
  simp only [State.finishAccess, completeAccess_completeSecond_phase, hp]

theorem pixelDone_answering (s : State) : s.answering.pixelDone = s.pixelDone.answering := by
  cases hp : s.phase with
  | idle =>
    rw [pixelDone_of_idle hp, pixelDone_of_idle (by exact hp)]
    rfl
  | blit =>
    rw [pixelDone_of_blit hp, pixelDone_of_blit (by exact hp)]
    rfl

theorem completeAccess_answering (s : State) (a : PendingAccess) :
    s.answering.completeAccess a = (s.completeAccess a).answering := by
  cases a with
  | readStripe c st => rfl
  | writeStripe c st v => rfl
  | getPixel x y => rfl
  | pixelRead x y v => rfl
  | pixelWrite x y v => exact pixelDone_answering (s.pixelStore x y v)

/-- Both halves of a pixel, one after the other, are its write (R65). -/
theorem completeSecond_pixelRead (s : State) (x : Column) (y : Row) (v : Bool) :
    (s.completeAccess (.pixelRead x y v)).completeSecond = (s.pixelWrite x y v).pixelDone := rfl

/-- Going on from an outstanding access comes to the same whether or not the store has completed it by then. -/
theorem finishAccess_eq_resumed {s : State} (hr : s.rst = false) (a : PendingAccess) :
    .next (s.answering.finishAccess a) = (s.completeAccess a).resumed := by
  have hr' : (s.completeAccess a).rst = false := (completeAccess_rst s a).trans hr
  have phase := (completeAccess_status s a).2
  cases ho : (s.completeAccess a).outstanding with
  | none =>
    have done : (s.answering.completeAccess a).completeSecond = (s.completeAccess a).answering := by
      rw [completeAccess_answering, completeSecond_of_none (by exact ho)]
    cases hp : s.phase with
    | idle => rw [finishAccess_of_idle (by exact hp), done, resumed_of_boundary (phase.trans hp) ho]
    | blit => rw [finishAccess_of_blit (by exact hp), done, resumed_of_blit hr' ho (phase.trans hp)]
  | some b =>
    have second : (s.answering.completeAccess a).completeSecond = (s.completeAccess a).answering.completeAccess b := by
      rw [completeAccess_answering, completeSecond_of_some (by exact ho)]
    have done : ((s.completeAccess a).answering.completeAccess b).completeSecond =
        (s.completeAccess a).answering.completeAccess b :=
      completeSecond_of_none (second ▸ completeSecond_outstanding s.answering a)
    rw [resumed_of_outstanding hr' ho]
    simp only [State.finishAccess, second, done]

/-! The sequencer. -/

theorem drawPixel_answering (s : State) : s.answering.drawPixel = s.drawPixel.answering := by
  rcases drawPixel_cases s with ⟨hb, e⟩ | ⟨hb, hx, hy, e⟩ | ⟨hb, off, e⟩ <;> rw [e]
  · exact drawPixel_of_bill hb
  · exact drawPixel_of_onScreen hb ⟨hx, hy⟩
  · exact drawPixel_of_offScreen hb off

theorem drawnPixel_answering (s : State) : s.answering.drawPixel.nextPixel = s.drawPixel.nextPixel.answering :=
  congrArg State.nextPixel (drawPixel_answering s)

/-- The sequencer runs, with `n` pixels to go and nothing outstanding. -/
structure State.Drawing (n : Nat) (s : State) : Prop where
  blit : s.phase = .blit
  free : s.outstanding = none
  released : s.rst = false
  left : s.seq.pixelsLeft = n

namespace State.Drawing

variable {s : State} {n : Nat}

theorem take (h : s.Drawing n) (w : Word) : (s.takePayload w).Drawing n := { h with }

theorem next (h : s.Drawing (n + 1)) : s.drawPixel.nextPixel.Drawing n := by
  obtain ⟨frame, -, latches⟩ := drawPixel_frame s
  exact {
    blit := (congrArg State.phase frame).trans h.blit
    free := (congrArg State.outstanding frame).trans h.free
    released := (congrArg State.rst frame).trans h.released
    left := pixelsLeft_nextPixel ((congrArg Latches.pixelsLeft latches).trans h.left) }

/-- A pixel that waits is drawn by the turn that goes on. -/
theorem wait (h : s.Drawing (n + 1)) (hw : s.pixelStalls = true) :
    s.awaitPixel.resumed = .next (blitLoop n s.drawPixel.nextPixel.answering) := by
  obtain ⟨-, hb, hx, hy⟩ := (pixelStalls_iff s).mp hw
  have drawn : s.settle.answering.drawPixel.nextPixel = s.drawPixel.nextPixel.answering := by
    rw [settle_of_none h.free, drawnPixel_answering]
  rw [resumed_of_outstanding (by exact h.released) (awaitPixel_outstanding s), finishAccess_of_blit (by exact h.blit),
    completeSecond_pixelRead, pixelDone_of_blit (by exact h.blit), ← drawn,
    drawPixel_of_onScreen (by exact hb) (by exact ⟨hx, hy⟩), State.blitRun]
  congr 2
  exact pixelsLeft_nextPixel h.left

end State.Drawing

/-- A run of the sequencer that waits leads to where a run that does not wait leads. -/
theorem blitLoop_resumed {n : Nat} {s : State} (h : s.Drawing n) :
    (blitLoop n s).resumed = .next (blitLoop n s.answering) := by
  have answers (u : State) : u.answering.pixelStalls = false := pixelStalls_of_unstalled (.inl rfl)
  refine blitLoop_induct (P := fun k u => u.Drawing k ∧ blitLoop n s.answering = blitLoop k u.answering)
    (Q := fun t => t.resumed = .next (blitLoop n s.answering)) ?done ?hold ?load ?draw ?loadWait ?wait n s ⟨h, rfl⟩
  case done =>
    rintro u ⟨h, run⟩
    rw [run]
    exact resumed_of_boundary rfl h.free
  case hold =>
    rintro k u ⟨h, run⟩ hd hc
    rw [run, resumed_of_blit h.released h.free h.blit, State.blitRun,
      show u.answering.seq.pixelsLeft = k + 1 from h.left]
  case load =>
    rintro k u w rest ⟨h, run⟩ hd hc -
    refine ⟨(h.take w).next, ?_⟩
    rw [run, blitLoop_load (by exact hd) (by exact hc) (by exact answers (u.takePayload w)), ← drawnPixel_answering]
    rfl
  case draw =>
    rintro k u ⟨h, run⟩ hd -
    refine ⟨h.next, ?_⟩
    rw [run, blitLoop_draw (by exact hd) (answers u), drawnPixel_answering]
  case loadWait =>
    rintro k u w rest ⟨h, run⟩ hd hc hw
    rw [run, blitLoop_load (by exact hd) (by exact hc) (by exact answers (u.takePayload w)), (h.take w).wait hw,
      ← drawnPixel_answering]
    rfl
  case wait =>
    rintro k u ⟨h, run⟩ hd hw
    rw [run, blitLoop_draw (by exact hd) (answers u), h.wait hw, drawnPixel_answering]

theorem blitRun_resumed {s : State} (hr : s.rst = false) (ho : s.outstanding = none) (hp : s.phase = .blit) :
    s.blitRun.resumed = .next s.answering.blitRun := blitLoop_resumed ⟨hp, ho, hr, rfl⟩

/-! The commands. -/

/-- A command of one access does when the store answers what going on from that access does. -/
theorem exec_eq_finishAccess {s : State} (hs : StoreAnswers s) (hp : s.phase = .idle) (ho : s.outstanding = none)
    {i : Instr} {a : PendingAccess} (ha : firstAccess i = some a) :
    exec i s = .next ((s.takeWord.await a).finishAccess a) := by
  have free := settle_of_none ho
  rw [finishAccess_of_idle (by exact hp)]
  cases i with
  | setPixel x y v =>
    cases ha
    rw [exec_setPixel hs, ← free, completeSecond_pixelRead, pixelDone_of_idle (by exact hp)]
    rfl
  | getPixel x y =>
    cases ha
    rw [exec_getPixel hs, ← free]
    rfl
  | readStripe c st =>
    cases ha
    rw [exec_readStripe hs, ← free]
    rfl
  | writeStripe c st v =>
    cases ha
    rw [exec_writeStripe hs, ← free]
    rfl
  | drawSprite x0 y0 w => cases ha
  | readStatus => cases ha
  | clearStatus => cases ha

section
variable {s : State} (hr : s.rst = false) (ho : s.outstanding = none) (hp : s.phase = .idle)
include hr ho hp

theorem exec_resumed (hs : s.storeStalls = true) {i : Instr} {t : State} (ht : exec i s = .next t) :
    exec i s.answering = t.resumed := by
  rcases exec_cases i s with ⟨-, a, ha, e⟩ | ⟨hs', -⟩ | ⟨hs', -⟩ | ⟨hs', -⟩ | ⟨hs', -⟩ | ⟨x0, y0, w, rfl, e⟩ | ⟨rfl, e⟩
    | ⟨rfl, e⟩
  · cases e.symm.trans ht
    rw [resumed_of_outstanding (t := s.takeWord.await a) hr rfl]
    exact exec_eq_finishAccess (s := s.answering) rfl hp ho ha
  · exact absurd (hs'.symm.trans hs) nofun
  · exact absurd (hs'.symm.trans hs) nofun
  · exact absurd (hs'.symm.trans hs) nofun
  · exact absurd (hs'.symm.trans hs) nofun
  · cases e.symm.trans ht
    exact (blitRun_resumed (s := s.takeWord.blitStart x0 y0 w false) hr ho rfl).symm
  · cases e.symm.trans ht
    exact (resumed_of_boundary (t := (s.respond s.status.word).takeWord) hp ho).symm
  · cases e.symm.trans ht
    exact (resumed_of_boundary (t := s.clearFlags.takeWord) hp ho).symm

theorem illegalHeader_resumed (cw : Word) (why : Reject) :
    .next (s.answering.illegalHeader cw why) = (s.illegalHeader cw why).resumed := by
  have boundary : s.raiseIll.takeWord.resumed = .next s.raiseIll.takeWord.answering := resumed_of_boundary hp ho
  cases why with
  | unassignedOpcode op => exact boundary.symm
  | reservedBits op => exact boundary.symm
  | illegalBlit w =>
    exact (blitRun_resumed (s := s.raiseIll.takeWord.blitStart (fieldX cw) (fieldY cw) w true) hr ho rfl).symm

end

/-- A turn that the store has kept waiting, gone on with, is the turn without the wait. -/
theorem psbStep_resumed {s t : State} (hr : s.rst = false) (hs : s.storeStalls = true) (ht : s.psbStep = .next t) :
    s.answering.psbStep = t.resumed := by
  rcases psbStep_cases s with ⟨e, hold⟩ | ⟨-, hs', -⟩ | ⟨-, ho, hp, e⟩
    | ⟨-, ho, hp, free, cw, rest, hc, ⟨i, hd, e⟩ | ⟨why, hd, e⟩⟩
  · cases e.symm.trans ht
    cases hc : s.inCommand with
    | true => rw [resumed_of_inCommand hc]
    | false =>
      obtain ⟨hp, ho⟩ := (inCommand_eq_false_iff s).mp hc
      rw [resumed_of_boundary hp ho]
      refine psbStep_of_hold (hold.imp_right fun waits => .inr (waits.resolve_left ?_))
      rintro ⟨⟨a, ha⟩, -⟩
      exact absurd (ha.symm.trans ho) nofun
  · exact absurd (hs'.symm.trans hs) nofun
  · cases e.symm.trans ht
    rw [blitRun_resumed hr ho hp]
    exact psbStep_of_blit hr ho hp
  · rw [psbStep_of_header (s := s.answering) hr hp ho ((rqHasRoom_iff s).mp free) hc, runHeader_of_ok hd]
    exact exec_resumed hr ho hp hs (e.symm.trans ht)
  · cases e.symm.trans ht
    rw [psbStep_of_header (s := s.answering) hr hp ho ((rqHasRoom_iff s).mp free) hc, runHeader_of_error hd]
    exact illegalHeader_resumed hr ho hp cw why

/-- Settles O42: PSB goes on after the wait, kept or completed, to where the turn without it leads. -/
theorem stallMakesNoDifference : Obligations.StallMakesNoDifference := by
  refine ⟨fun s t hr hs ht => psbStep_resumed hr hs ht, fun s t later hr ho hi ht => ?_⟩
  obtain ⟨a, ha⟩ := Option.ne_none_iff_exists'.mp ho
  rw [step_of_storeCompletes hi ha] at ht
  cases ht
  exact (psbStep_of_outstanding (s := { s with storeStalls := false, inputs := later }) hr ha).trans
    (finishAccess_eq_resumed (s := { s with inputs := later }) hr a)

end Sys2Proof.Machine
end

section
/-! Headers (R45 to R54, R60): a field placed in a word is read back from its place, the operands of a row are the bits
outside its mask, and the decoder answers by the row of the opcode, or by name where no row accepts. -/

namespace Sys2Proof

open Machine Claims

/-! A field in its place: a value of `w` bits at bit `n` of a word, or at bit 0 (R46 to R49). -/

section
variable {w n : Nat}

theorem toNat_setWidth_shiftLeft (b : BitVec w) (h : w + n ≤ 32) : (b.setWidth 32 <<< n).toNat = b.toNat <<< n := by
  have fits : b.toNat * 2 ^ n < 2 ^ 32 :=
    calc b.toNat * 2 ^ n < 2 ^ w * 2 ^ n := Nat.mul_lt_mul_of_pos_right b.isLt (Nat.two_pow_pos n)
      _ = 2 ^ (w + n) := (Nat.pow_add 2 w n).symm
      _ ≤ 2 ^ 32 := Nat.pow_le_pow_right (by decide) h
  have hw : w ≤ 32 := by omega
  rw [BitVec.toNat_shiftLeft, BitVec.toNat_setWidth_of_le hw, Nat.shiftLeft_eq, Nat.mod_eq_of_lt fits]

theorem extractLsb'_same_place (b : BitVec w) (h : w + n ≤ 32) : (b.setWidth 32 <<< n).extractLsb' n w = b := by
  refine BitVec.eq_of_getLsbD_eq fun k hk => ?_
  have hbit : n + k < 32 := by omega
  simp [hbit, hk]

/-- The bits beside a field's place are 0. -/
theorem extractLsb'_other_place {n' w' : Nat} (b : BitVec w) (h : n + w ≤ n' ∨ n' + w' ≤ n) :
    (b.setWidth 32 <<< n).extractLsb' n' w' = 0#w' := by
  refine BitVec.eq_of_getLsbD_eq fun k hk => ?_
  rcases h with above | below
  · have hout : w ≤ n' + k - n := by omega
    simp [b.getLsbD_of_ge _ hout]
  · have hbelow : n' + k < n := by omega
    simp [hbelow]

theorem extractLsb'_lowest_place (b : BitVec w) (h : w ≤ 32) : (b.setWidth 32).extractLsb' 0 w = b := by
  simpa using extractLsb'_same_place (n := 0) b h

theorem extractLsb'_above_lowest_place {n' w' : Nat} (b : BitVec w) (h : w ≤ n') :
    (b.setWidth 32).extractLsb' n' w' = 0#w' := by
  simpa using extractLsb'_other_place (n := 0) (n' := n') (w' := w') b (.inl (by omega))

/-- A field read from a word and put back in its place is the word without its other bits. -/
theorem extractLsb'_put_back (cw : Word) (n w : Nat) :
    (cw.extractLsb' n w).setWidth 32 <<< n = cw &&& (BitVec.allOnes w).setWidth 32 <<< n := by
  refine BitVec.eq_of_getLsbD_eq fun k hk => ?_
  by_cases below : k < n
  · simp [below]
  · by_cases inside : k - n < w <;> simp [hk, below, inside, Nat.add_sub_of_le (Nat.le_of_not_lt below)]

theorem extractLsb'_put_back_lowest (cw : Word) (w : Nat) :
    (cw.extractLsb' 0 w).setWidth 32 = cw &&& (BitVec.allOnes w).setWidth 32 := by
  simpa using extractLsb'_put_back cw 0 w

end

/-! The operands of a header (R46 to R50, R60). -/

/-- The command of the same row as a command, its operands the fields of a word. -/
def Instr.readFrom (cw : Word) : Instr → Instr
  | .setPixel _ _ _ => .setPixel (fieldX cw) (fieldY cw) (fieldV cw)
  | .getPixel _ _ => .getPixel (fieldX cw) (fieldY cw)
  | .readStripe _ _ => .readStripe (fieldX cw) (fieldStr cw)
  | .writeStripe _ _ _ => .writeStripe (fieldX cw) (fieldStr cw) (fieldData cw)
  | .drawSprite _ _ _ => .drawSprite (fieldX cw) (fieldY cw) (fieldData cw)
  | .readStatus => .readStatus
  | .clearStatus => .clearStatus

theorem row_readFrom (i : Instr) (cw : Word) : (i.readFrom cw).row = i.row := by
  cases i <;> rfl

theorem readFrom_encode (i : Instr) : i.readFrom (encode i) = i := by
  cases i <;>
    simp (disch := omega) [Instr.readFrom, encode, fieldX, fieldY, fieldV, fieldStr, fieldData, BitVec.extractLsb'_or,
      extractLsb'_same_place, extractLsb'_other_place, extractLsb'_lowest_place, extractLsb'_above_lowest_place]

/-- The bit V as a field of width 1. -/
theorem ofBool_fieldV (cw : Word) : BitVec.ofBool (fieldV cw) = cw.extractLsb' 16 1 := by
  refine BitVec.eq_of_getLsbD_eq fun k hk => ?_
  obtain rfl : k = 0 := by omega
  simp [fieldV]

/-- The bits outside a row's mask are the places of its operands. -/
theorem opcodeTable_unmasked :
    ~~~rowSetPixel.mask = (BitVec.allOnes 1).setWidth 32 <<< 16
        ||| ((BitVec.allOnes 6).setWidth 32 <<< 8 ||| (BitVec.allOnes 7).setWidth 32)
      ∧ ~~~rowGetPixel.mask = (BitVec.allOnes 6).setWidth 32 <<< 8 ||| (BitVec.allOnes 7).setWidth 32
      ∧ ~~~rowReadStripe.mask = (BitVec.allOnes 3).setWidth 32 <<< 8 ||| (BitVec.allOnes 7).setWidth 32
      ∧ ~~~rowWriteStripe.mask = (BitVec.allOnes 8).setWidth 32 <<< 16
        ||| ((BitVec.allOnes 3).setWidth 32 <<< 8 ||| (BitVec.allOnes 7).setWidth 32)
      ∧ ~~~rowDrawSprite.mask = (BitVec.allOnes 8).setWidth 32 <<< 16
        ||| ((BitVec.allOnes 6).setWidth 32 <<< 8 ||| (BitVec.allOnes 7).setWidth 32)
      ∧ ~~~rowReadStatus.mask = 0#32 ∧ ~~~rowClearStatus.mask = 0#32 := by decide

/-- The command that a row reads from a word has the row's pattern and the word's operand bits. -/
theorem encode_readFrom (i : Instr) (cw : Word) :
    encode (i.readFrom cw) = i.row.pattern ||| (cw &&& ~~~i.row.mask) := by
  cases i <;>
    simp only [Instr.readFrom, Instr.row, opcodeTable_unmasked, BitVec.and_or_distrib_left, ← extractLsb'_put_back,
      ← extractLsb'_put_back_lowest, BitVec.and_zero, BitVec.or_zero, ← BitVec.or_assoc, encode, ofBool_fieldV] <;>
    rfl

/-! The rows of the opcode map (R50). -/

theorem accepts_iff (r : OpcodeRow) (cw : Word) : r.accepts cw = true ↔ cw &&& r.mask = r.pattern := beq_iff_eq

theorem accepts_eq_false_iff (r : OpcodeRow) (cw : Word) : r.accepts cw = false ↔ cw &&& r.mask ≠ r.pattern :=
  beq_eq_false_iff_ne

theorem row_mem_opcodeTable (i : Instr) : i.row ∈ opcodeTable := by
  cases i <;> simp [Instr.row, opcodeTable]

theorem exists_row_eq {r : OpcodeRow} (hr : r ∈ opcodeTable) : ∃ i : Instr, i.row = r := by
  fin_cases hr
  exacts [⟨.setPixel 0 0 false, rfl⟩, ⟨.getPixel 0 0, rfl⟩, ⟨.readStripe 0 0, rfl⟩, ⟨.writeStripe 0 0 0, rfl⟩,
    ⟨.drawSprite 0 0 0, rfl⟩, ⟨.readStatus, rfl⟩, ⟨.clearStatus, rfl⟩]

/-- The opcodes of the seven rows. -/
theorem opcodeTable_ops : fieldOp rowSetPixel.pattern = 1#4 ∧ fieldOp rowGetPixel.pattern = 2#4
    ∧ fieldOp rowReadStripe.pattern = 3#4 ∧ fieldOp rowWriteStripe.pattern = 4#4 ∧ fieldOp rowDrawSprite.pattern = 5#4
    ∧ fieldOp rowReadStatus.pattern = 6#4 ∧ fieldOp rowClearStatus.pattern = 7#4 := by decide

theorem eq_rowDrawSprite_iff {r : OpcodeRow} (hr : r ∈ opcodeTable) :
    r = rowDrawSprite ↔ fieldOp r.pattern = 5#4 := by
  have table : ∀ r ∈ opcodeTable, r = rowDrawSprite ↔ fieldOp r.pattern = 5#4 := by decide
  exact table r hr

theorem fieldOp_eq_iff (cw cw' : Word) : fieldOp cw = fieldOp cw' ↔ cw.toNat / 2 ^ 28 = cw'.toNat / 2 ^ 28 := by
  rw [← BitVec.toNat_inj, fieldOp_toNat, fieldOp_toNat]

/-- The opcodes of no row are 0 and 8 to 15 (R54). -/
theorem fieldOp_unassigned_iff (cw : Word) : (∀ r ∈ opcodeTable, fieldOp cw ≠ fieldOp r.pattern) ↔
    cw.toNat / 2 ^ 28 = 0 ∨ 8 ≤ cw.toNat / 2 ^ 28 := by
  have table : ∀ op : BitVec 4, (∀ r ∈ opcodeTable, op ≠ fieldOp r.pattern) ↔ op.toNat = 0 ∨ 8 ≤ op.toNat := by decide
  rw [table, fieldOp_toNat]

/-- Every mask covers the opcode, so a row accepts words of its own opcode only. -/
theorem fieldOp_of_accepts {r : OpcodeRow} (hr : r ∈ opcodeTable) {cw : Word} (h : r.accepts cw = true) :
    fieldOp cw = fieldOp r.pattern := by
  have covered : ∀ r ∈ opcodeTable, fieldOp r.mask = BitVec.allOnes 4 := by decide
  calc fieldOp cw = fieldOp cw &&& fieldOp r.mask := by rw [covered r hr, BitVec.and_allOnes]
    _ = fieldOp (cw &&& r.mask) := BitVec.extractLsb'_and.symm
    _ = fieldOp r.pattern := by rw [(accepts_iff r cw).mp h]

theorem accepts_encode (i : Instr) : i.row.accepts (encode i) = true := by
  rw [accepts_iff]
  cases i with
  | setPixel x y v => exact Laws.HeaderPattern.setPixel x y v
  | getPixel x y => exact Laws.HeaderPattern.getPixel x y
  | readStripe c st => exact Laws.HeaderPattern.readStripe c st
  | writeStripe c st data => exact Laws.HeaderPattern.writeStripe c st data
  | drawSprite x0 y0 w => exact Laws.HeaderPattern.drawSprite x0 y0 w
  | readStatus => exact Laws.HeaderPattern.readStatus
  | clearStatus => exact Laws.HeaderPattern.clearStatus

/-- A word that a row accepts is the row's command with the word's own fields. -/
theorem encode_readFrom_of_accepts {i : Instr} {cw : Word} (h : i.row.accepts cw = true) :
    encode (i.readFrom cw) = cw := by
  rw [encode_readFrom, ← (accepts_iff _ _).mp h, ← BitVec.and_or_distrib_left, BitVec.or_not_self, BitVec.and_allOnes]

/-! The decoder (R51). -/

/-- The name under which a header of an assigned opcode is rejected (R53, R78). -/
def rejection (cw : Word) : Reject :=
  if fieldOp cw = 5#4 then .illegalBlit (fieldData cw) else .reservedBits (fieldOp cw)

/-- A header of a row's opcode is a command of the row, or rejected. -/
theorem decode_of_op {i : Instr} {cw : Word} (h : fieldOp cw = fieldOp i.row.pattern) :
    decode cw = if i.row.accepts cw then .ok (i.readFrom cw) else .error (rejection cw) := by
  cases i with
  | drawSprite x0 y0 w =>
    simp only [Instr.row, opcodeTable_ops] at h
    rw [rejection, if_pos h]
    exact decode_of_op_five h
  | _ =>
    simp only [Instr.row, opcodeTable_ops] at h
    simp [decode, Instr.row, Instr.readFrom, rejection, h]

theorem decode_of_accepts {i : Instr} {cw : Word} (h : i.row.accepts cw = true) : decode cw = .ok (i.readFrom cw) := by
  rw [decode_of_op (fieldOp_of_accepts (row_mem_opcodeTable i) h), if_pos h]

theorem decode_of_not_accepts {r : OpcodeRow} (hr : r ∈ opcodeTable) {cw : Word} (hop : fieldOp cw = fieldOp r.pattern)
    (h : r.accepts cw = false) : decode cw = .error (rejection cw) := by
  obtain ⟨i, rfl⟩ := exists_row_eq hr
  simp [decode_of_op hop, h]

theorem decode_of_unassigned {cw : Word} (h : cw.toNat / 2 ^ 28 = 0 ∨ 8 ≤ cw.toNat / 2 ^ 28) :
    decode cw = .error (.unassignedOpcode (fieldOp cw)) := by
  have none := (fieldOp_unassigned_iff cw).mpr h
  simp only [opcodeTable, List.forall_mem_cons, opcodeTable_ops] at none
  simp [decode, none]

/-- What the decoder can answer: a command, or one of the three names (R51, R53, R54). -/
theorem decode_cases (cw : Word) :
    (∃ i, decode cw = .ok i)
      ∨ (∃ r ∈ opcodeTable, r ≠ rowDrawSprite ∧ fieldOp cw = fieldOp r.pattern ∧ r.accepts cw = false
          ∧ decode cw = .error (.reservedBits (fieldOp cw)))
      ∨ (fieldOp cw = 5#4 ∧ rowDrawSprite.accepts cw = false ∧ decode cw = .error (.illegalBlit (fieldData cw)))
      ∨ ((cw.toNat / 2 ^ 28 = 0 ∨ 8 ≤ cw.toNat / 2 ^ 28) ∧ decode cw = .error (.unassignedOpcode (fieldOp cw))) := by
  by_cases hop : ∃ r ∈ opcodeTable, fieldOp cw = fieldOp r.pattern
  · obtain ⟨r, hr, hop⟩ := hop
    cases h : r.accepts cw with
    | true =>
      obtain ⟨i, rfl⟩ := exists_row_eq hr
      exact .inl ⟨_, decode_of_accepts h⟩
    | false =>
      have rejected := decode_of_not_accepts hr hop h
      have sprite := eq_rowDrawSprite_iff hr
      rw [← hop] at sprite
      by_cases five : fieldOp cw = 5#4
      · rw [rejection, if_pos five] at rejected
        rw [sprite.mpr five] at h
        exact .inr (.inr (.inl ⟨five, h, rejected⟩))
      · rw [rejection, if_neg five] at rejected
        exact .inr (.inl ⟨r, hr, mt sprite.mp five, hop, h, rejected⟩)
  · push Not at hop
    have unassigned := (fieldOp_unassigned_iff cw).mp hop
    exact .inr (.inr (.inr ⟨unassigned, decode_of_unassigned unassigned⟩))

/-- A header is a command exactly when it is the command's encoding (R50, R51, R60). -/
theorem decode_eq_ok_iff (cw : Word) (i : Instr) : decode cw = .ok i ↔ encode i = cw := by
  constructor
  · intro h
    have accepted := accepts_of_decode h
    have same : i.readFrom cw = i := Except.ok.inj ((decode_of_accepts accepted).symm.trans h)
    rw [← same]
    exact encode_readFrom_of_accepts accepted
  · rintro rfl
    rw [decode_of_accepts (accepts_encode i), readFrom_encode]

@[simp] theorem decode_encode (i : Instr) : decode (encode i) = .ok i := (decode_eq_ok_iff _ i).mpr rfl

theorem decode_eq_unassignedOpcode_iff (cw : Word) : decode cw = .error (.unassignedOpcode (fieldOp cw)) ↔
    cw.toNat / 2 ^ 28 = 0 ∨ 8 ≤ cw.toNat / 2 ^ 28 := by
  refine ⟨fun hd => ?_, decode_of_unassigned⟩
  rcases decode_cases cw with ⟨i, e⟩ | ⟨r, -, -, -, -, e⟩ | ⟨-, -, e⟩ | ⟨unassigned, -⟩
  · cases e.symm.trans hd
  · cases e.symm.trans hd
  · cases e.symm.trans hd
  · exact unassigned

theorem decode_eq_reservedBits_iff (cw : Word) : (∃ op, decode cw = .error (.reservedBits op)) ↔
    ∃ r ∈ opcodeTable, r ≠ rowDrawSprite ∧ fieldOp cw = fieldOp r.pattern ∧ r.accepts cw = false := by
  constructor
  · rintro ⟨op, hd⟩
    rcases decode_cases cw with ⟨i, e⟩ | ⟨r, hr, hrow, hop, hbad, -⟩ | ⟨-, -, e⟩ | ⟨-, e⟩
    · cases e.symm.trans hd
    · exact ⟨r, hr, hrow, hop, hbad⟩
    · cases e.symm.trans hd
    · cases e.symm.trans hd
  · rintro ⟨r, hr, hrow, hop, hbad⟩
    have notFive : fieldOp cw ≠ 5#4 := by rwa [hop, Ne, ← eq_rowDrawSprite_iff hr]
    exact ⟨_, by rw [decode_of_not_accepts hr hop hbad, rejection, if_neg notFive]⟩

theorem decode_eq_illegalBlit_iff (cw : Word) : (∃ w, decode cw = .error (.illegalBlit w)) ↔
    cw.toNat / 2 ^ 28 = 5 ∧ cw &&& 0xFF00C080#32 ≠ 0x50000000#32 := by
  constructor
  · rintro ⟨w, hd⟩
    rcases decode_cases cw with ⟨i, e⟩ | ⟨r, -, -, -, -, e⟩ | ⟨five, hbad, -⟩ | ⟨-, e⟩
    · cases e.symm.trans hd
    · cases e.symm.trans hd
    · exact ⟨(fieldOp_eq_five_iff cw).mp five, (accepts_eq_false_iff rowDrawSprite cw).mp hbad⟩
    · cases e.symm.trans hd
  · rintro ⟨five, hbad⟩
    exact ⟨_, decode_of_illegal_blit five hbad⟩

/-! The statements about headers. -/

/-- Settles O2: the decoder reads the fields back from their places, and each field in its place is the number shifted
there. -/
theorem encodeThenDecode : Obligations.EncodeThenDecode := by
  refine ⟨decode_encode, ?_, ?_, ?_, ?_, ?_, ?_, rfl, rfl⟩
  all_goals
    intros
    simp (disch := omega) only [encode, packPayloadWord, BitVec.toNat_or, toNat_setWidth_shiftLeft,
      BitVec.toNat_setWidth_of_le, BitVec.toNat_ofBool, BitVec.toNat_ofNat, Nat.reducePow, Nat.reduceMod]

/-- Settles O6: the header is read back, and it calls for as many words as the payload has. -/
theorem commandStreamRoundTrip : Obligations.CommandStreamRoundTrip := by
  intro c rest hwf
  have hlen : c.payload.length = c.header.payloadWords := beq_iff_eq.mp hwf
  simp [Command.words, decodeCommand, ← hlen]

/-- Settles O3: the row that accepts the header fixes every bit that is no operand. -/
theorem legalWordIsItsEncoding : Obligations.LegalWordIsItsEncoding := fun cw i => (decode_eq_ok_iff cw i).mp

/-- Settles O4: a word that a row accepts has the row's opcode, so the decoder tests that row. -/
theorem matchAndMaskDecide : Obligations.MatchAndMaskDecide := by
  intro cw r hr
  rw [← accepts_iff]
  constructor
  · rintro ⟨i, hd, rfl⟩
    exact accepts_of_decode hd
  · intro h
    obtain ⟨i, rfl⟩ := exists_row_eq hr
    exact ⟨_, decode_of_accepts h, row_readFrom i cw⟩

/-- Settles O5: each name has its own condition on the opcode and the reserved bits. -/
theorem illegalHeadersAreNamed : Obligations.IllegalHeadersAreNamed := by
  intro cw
  refine ⟨decode_eq_unassignedOpcode_iff cw, ?_, decode_eq_illegalBlit_iff cw⟩
  simp only [decode_eq_reservedBits_iff, fieldOp_eq_iff, accepts_eq_false_iff]

/-- Settles O28: the header is rejected by its opcode alone, and such a header sets ILL and is consumed. -/
theorem unassignedOpcodeOnlySetsIll : Obligations.UnassignedOpcodeOnlySetsIll := by
  intro cw unassigned s rest h
  rw [step_of_atHeader h, runHeader_of_error (decode_of_unassigned unassigned)]
  obtain ⟨-, -, -, -, -, hc⟩ := h
  have tail : s.cmdIn.tail = rest := by rw [hc, List.tail_cons]
  rw [← tail]
  rfl

/-- Settles O1: eleven closed words, each run through the decoder. -/
theorem specWordsDecode : Obligations.SpecWordsDecode := by
  unfold Obligations.SpecWordsDecode
  decide

end Sys2Proof
end

section
/-! The assembler (R58, R59): which lines are in range, as numbers, and what the lines in range and the pseudo-instructions
give. -/

namespace Sys2Proof

/-! The ranges of the operands (R58). -/

theorem wf_setPixel_iff (x y v : Nat) : (AsmLine.setPixel x y v).wf = true ↔ x ≤ 127 ∧ y ≤ 63 ∧ v ≤ 1 := by
  simp [AsmLine.wf, Nat.lt_succ_iff, and_assoc]

theorem wf_getPixel_iff (x y : Nat) : (AsmLine.getPixel x y).wf = true ↔ x ≤ 127 ∧ y ≤ 63 := by
  simp [AsmLine.wf, Nat.lt_succ_iff]

theorem wf_readStripe_iff (c st : Nat) : (AsmLine.readStripe c st).wf = true ↔ c ≤ 127 ∧ st ≤ 7 := by
  simp [AsmLine.wf, Nat.lt_succ_iff]

theorem wf_writeStripe_iff (c st d : Nat) : (AsmLine.writeStripe c st d).wf = true ↔ c ≤ 127 ∧ st ≤ 7 ∧ d ≤ 255 := by
  simp [AsmLine.wf, Nat.lt_succ_iff, and_assoc]

theorem wf_drawSprite_iff (x0 y0 : Nat) (bytes : List Nat) : (AsmLine.drawSprite x0 y0 bytes).wf = true ↔
    x0 ≤ 127 ∧ y0 ≤ 63 ∧ bytes.length ≤ 255 ∧ ∀ b ∈ bytes, b ≤ 255 := by
  simp [AsmLine.wf, Nat.lt_succ_iff, and_assoc]

theorem wf_rawWord_iff (w : Nat) : (AsmLine.rawWord w).wf = true ↔ w < 2 ^ 32 := decide_eq_true_iff

theorem wf_clearColumn_iff (c : Nat) : (AsmLine.clearColumn c).wf = true ↔ c < 128 := decide_eq_true_iff

/-! What a line gives (R58, R59). -/

theorem assemble_eq_ite {l : AsmLine} {p : Prop} [Decidable p] (h : l.wf = true ↔ p) :
    assemble l = if p then some l.words else none := by
  simp only [assemble, h]

/-- Sprite bytes in range are kept as they are, and a byte past the last is 0. -/
theorem toNat_getD_map_ofNat {bytes : List Nat} (h : ∀ b ∈ bytes, b ≤ 255) (i : Nat) :
    ((bytes.map (BitVec.ofNat 8)).getD i 0#8).toNat = bytes.getD i 0 := by
  rcases Nat.lt_or_ge i bytes.length with hi | hi
  · have hb := h _ (List.getElem_mem hi)
    simp [hi, Nat.mod_eq_of_lt (Nat.lt_succ_of_le hb)]
  · simp [hi]

/-- Settles O9: a line gives its words exactly when its operands are in range, and a sprite's payload is its packed
bytes. -/
theorem assemblerEncodesItsLine : Obligations.AssemblerEncodesItsLine := by
  refine ⟨fun x y v => assemble_eq_ite (wf_setPixel_iff x y v), fun x y => assemble_eq_ite (wf_getPixel_iff x y),
    fun c st => assemble_eq_ite (wf_readStripe_iff c st), fun c st d => assemble_eq_ite (wf_writeStripe_iff c st d),
    fun x0 y0 bytes => ?sprite, rfl, rfl, fun w => assemble_eq_ite (wf_rawWord_iff w)⟩
  case sprite =>
    have line := assemble_eq_ite (wf_drawSprite_iff x0 y0 bytes)
    split
    next inRange =>
      rw [if_pos inRange] at line
      obtain ⟨-, -, -, bytesInRange⟩ := inRange
      refine ⟨_, line, ?length, fun i => ?byte⟩
      case length => rw [packPayload_length, List.length_map]
      case byte => rw [spriteByte_packPayload, toNat_getD_map_ofNat bytesInRange]
    next outOfRange => rw [line, if_neg outOfRange]

/-- CLEAR_COLUMN's words are those of its eight lines (R59). -/
theorem clearColumnWords_eq_flatMap {c : Nat} (hc : c < 128) : clearColumnWords (BitVec.ofNat 7 c) =
    (List.range 8).flatMap fun st => (assemble (.writeStripe c st 0)).getD [] := by
  have line : ∀ st ∈ List.range 8, (assemble (.writeStripe c st 0)).getD []
      = [encode (.writeStripe (BitVec.ofNat 7 c) (BitVec.ofNat 3 st) 0#8)] := by
    intro st hst
    have hst := List.mem_range.mp hst
    rw [assemble_eq_ite (wf_writeStripe_iff c st 0), if_pos (by omega)]
    rfl
  rw [List.flatMap_congr line, ← List.map_eq_flatMap]
  rfl

theorem clsWords_eq_flatMap : clsWords = (List.range 128).flatMap fun c =>
    (List.range 8).flatMap fun st => (assemble (.writeStripe c st 0)).getD [] :=
  List.flatMap_congr fun _ hc => clearColumnWords_eq_flatMap (List.mem_range.mp hc)

/-- Settles O10: PSET and PCLR are SET_PIXEL lines with the same range, and the clears are their WRITE_STRIPE lines. -/
theorem pseudoInstructionExpansion : Obligations.PseudoInstructionExpansion := by
  refine ⟨fun x y => ?pset, fun x y => ?pclr, fun c hc => ?clearColumn, ?cls⟩
  case pset => simp [assemble, AsmLine.wf, AsmLine.words]
  case pclr => simp [assemble, AsmLine.wf, AsmLine.words]
  case clearColumn =>
    rw [assemble_eq_ite (wf_clearColumn_iff c), if_pos hc, ← clearColumnWords_eq_flatMap hc]
    rfl
  case cls => exact congrArg some clsWords_eq_flatMap

end Sys2Proof
end

section
/-! The stripe primitives (R62, R63) and the pixel/stripe invariant (R67), with what the commands of a single access
share: an illegal header only sets ILL, and an unwritten stripe reads as FB_INIT. -/

namespace Sys2Proof.Machine

open Claims

/-! What a header with a bit set that must be 0 does (R53, R82). -/

theorem onlySetsIll_of_reservedBits {cw : Word} {op : BitVec 4} (rejected : decode cw = .error (.reservedBits op)) :
    OnlySetsIll cw := by
  intro s rest h
  rw [step_of_atHeader h, runHeader_of_error rejected]
  obtain ⟨-, -, -, -, -, hc⟩ := h
  have tail : s.cmdIn.tail = rest := by rw [hc, List.tail_cons]
  rw [← tail]
  rfl

/-- A header of an assigned opcode other than DRAW_SPRITE's, with a bit set that must be 0, only sets ILL (R53). -/
theorem onlySetsIll_of_row {r : OpcodeRow} (hr : r ∈ opcodeTable) (hrow : r ≠ rowDrawSprite) {cw : Word}
    (hop : cw.toNat / 2 ^ 28 = r.pattern.toNat / 2 ^ 28) (hbad : cw &&& r.mask ≠ r.pattern) : OnlySetsIll cw := by
  have named := (decode_eq_reservedBits_iff cw).mpr
    ⟨r, hr, hrow, (fieldOp_eq_iff _ _).mpr hop, (accepts_eq_false_iff _ _).mpr hbad⟩
  obtain ⟨_, rejected⟩ := named
  exact onlySetsIll_of_reservedBits rejected

/-! The stripes and responses of the commands (R24, R52, R65). -/

/-- A stripe that has not been written holds its byte of FB_INIT (R24, U4). -/
theorem stripe_of_not_written {s : State} {c : Column} {st : StripeIx} (h : s.fb.written c st = false) :
    s.stripe c st = Config.fbInit c st := by
  rw [Memory.written, Option.isSome_eq_false_iff, Option.isNone_iff_eq_none] at h
  rw [stripe_eq, Memory.stripe, h, Option.getD_none]

/-- A pixel write leaves in its own stripe the byte that was there with the pixel's bit set or cleared (R65). -/
theorem stripe_pixelWrite_same (s : State) (x : Column) (y : Row) (v : Bool) :
    (s.pixelWrite x y v).stripe x (pixelStripe y) = withBit (s.stripe x (pixelStripe y)) (pixelBit y) v := by
  rw [stripe_eq, pixelWrite_fb, stripe_setStripe_same]

@[simp] theorem takeWord_stripe (s : State) (c : Column) (st : StripeIx) : s.takeWord.stripe c st = s.stripe c st := rfl

@[simp] theorem takeWord_pixel (s : State) (x : Column) (y : Row) : s.takeWord.pixel x y = s.pixel x y := rfl

/-- A byte's response is 0 above the byte (R52). -/
theorem byteResponse_getLsbD_of_ge (v : Byte) {k : Nat} (hk : 8 ≤ k) : (byteResponse v).getLsbD k = false := by
  rw [byteResponse, BitVec.getLsbD_setWidth, BitVec.getLsbD_of_ge v k hk, Bool.and_false]

theorem pixelResponse_eq_ofNat (v : Bool) : pixelResponse v = BitVec.ofNat 32 v.toNat := by
  cases v <;> rfl

/-! The statements. -/

/-- Settles O14: the response is the stripe's byte as a number, and the access leaves nothing behind but its event. -/
theorem readStripeReturnsTheByte : Obligations.ReadStripeReturnsTheByte := by
  obtain ⟨-, -, -, encoding, -⟩ := encodeThenDecode
  refine ⟨encoding, ?effect, fun _ _ _ => stripe_of_not_written, ?illegal⟩
  case effect =>
    intro c st s answers
    rw [exec_readStripe answers, ← byteResponse_eq_ofNat]
    rfl
  case illegal =>
    intro cw hop hbad
    exact onlySetsIll_of_row (r := rowReadStripe) (by decide) (by decide) hop hbad

/-- Settles O15: the one stripe write fixes every stripe, and a bit of the byte written is the pixel of its row. -/
theorem writeStripeReplacesTheByte : Obligations.WriteStripeReplacesTheByte := by
  obtain ⟨-, -, -, -, encoding, -⟩ := encodeThenDecode
  refine ⟨encoding, ?effect, ?illegal⟩
  case effect =>
    intro c st data s answers
    refine ⟨_, exec_writeStripe answers c st data, ?stripes, ?pixels, rfl⟩
    case stripes => exact fun c' st' => stripe_stripeWrite s c c' st st' data
    case pixels =>
      intro b hb
      rw [← stripe_getLsbD_eq_pixel _ _ _ hb, takeWord_stripe, stripe_stripeWrite, if_pos ⟨rfl, rfl⟩]
  case illegal =>
    intro cw hop hbad
    exact onlySetsIll_of_row (r := rowWriteStripe) (by decide) (by decide) hop hbad

/-- Settles O29: both reads see the stripe that SET_PIXEL wrote, which is the old one but for the pixel's bit. -/
theorem pixelStripeInvariant : Obligations.PixelStripeInvariant := by
  intro x y v s answers
  have after : StoreAnswers (s.pixelWrite x y v).takeWord := answers
  refine ⟨_, _, _, _, exec_setPixel answers x y v, exec_readStripe after x (rowStripe y),
    answerStripe_rq _ x (rowStripe y), ?byte, ?zero,
    exec_getPixel after x y, ?pixel⟩
  case byte =>
    intro k hk
    rw [byteResponse_getLsbD _ hk, takeWord_stripe, rowStripe_eq_pixelStripe, stripe_pixelWrite_same,
      withBit_getLsbD _ _ _ hk, pixelBit_toNat]
  case zero => exact fun k hk => byteResponse_getLsbD_of_ge _ hk
  case pixel =>
    rw [takeWord_rq, answerPixel_rq, takeWord_rq, pixelWrite_rq, takeWord_pixel, pixel_pixelWrite,
      if_pos ⟨rfl, rfl⟩, pixelResponse_eq_ofNat]

end Sys2Proof.Machine
end

section
/-! The Pixel/Stripe Adapter's commands (R65, R66): each is its pixel operation followed by the taking of its header, so
what is left to say is what the operation does to the stripes and what it answers. -/

namespace Sys2Proof.Machine

open Claims

/-- What a pixel write does to every stripe: its own takes the old byte with the pixel's bit set or cleared, and no other
changes (R65). -/
theorem stripe_pixelWrite (s : State) (x c : Column) (y : Row) (st : StripeIx) (v : Bool) :
    (s.pixelWrite x y v).stripe c st =
      if c = x ∧ st = rowStripe y then withBit (s.stripe x (rowStripe y)) (pixelBit y) v else s.stripe c st := by
  rw [rowStripe_eq_pixelStripe, stripe_eq, pixelWrite_fb]
  exact stripe_setStripe s.fb x c (pixelStripe y) st _

/-- Settles O16: the command is one pixel write, whose new byte differs from the old in the pixel's bit alone. -/
theorem setPixelWritesOneBit : Obligations.SetPixelWritesOneBit := by
  obtain ⟨-, encoding, -⟩ := encodeThenDecode
  refine ⟨encoding, ?effect, fun _ _ _ => stripe_of_not_written, ?illegal⟩
  case effect =>
    intro x y v s answers
    refine ⟨_, withBit (s.stripe x (rowStripe y)) (pixelBit y) v, exec_setPixel answers x y v, ?bits, ?stripes, ?frame⟩
    case bits =>
      intro k hk
      rw [withBit_getLsbD _ _ _ hk, pixelBit_toNat]
    case stripes => exact fun c st => stripe_pixelWrite s x c y st v
    case frame =>
      rw [rowStripe_eq_pixelStripe, ← pixelWrite_trace]
      rfl
  case illegal =>
    intro cw hop hbad
    exact onlySetsIll_of_row (r := rowSetPixel) (by decide) (by decide) hop hbad

/-- Settles O17: the response is the pixel's bit as the number 0 or 1, and the read leaves nothing behind but its
event. -/
theorem getPixelReturnsTheBit : Obligations.GetPixelReturnsTheBit := by
  obtain ⟨-, -, encoding, -⟩ := encodeThenDecode
  refine ⟨encoding, ?effect, fun _ _ _ => stripe_of_not_written, ?illegal⟩
  case effect =>
    intro x y s answers
    rw [exec_getPixel answers, ← pixelResponse_eq_ite, ← pixel_eq_stripe_getLsbD, rowStripe_eq_pixelStripe]
    rfl
  case illegal =>
    intro cw hop hbad
    exact onlySetsIll_of_row (r := rowGetPixel) (by decide) (by decide) hop hbad

end Sys2Proof.Machine
end

section
/-! A whole DRAW_SPRITE (R69 to R76): of its pixels each on the screen costs a read and a write and each other raises OOR,
so the events and the flag are a count of the pixels on the screen, which is R75's product. -/

namespace Sys2Proof.Machine

open Claims

/-! The empty sprite (R76). -/

theorem blitRun_of_no_pixels {s : State} (h : s.seq.pixelsLeft = 0) : s.blitRun = { s with phase := .idle } := by
  rw [State.blitRun, h, blitLoop]

/-- Settles O23: a sprite of no columns has no pixel, so its run ends where it starts. -/
theorem emptySpriteIsTheHeaderAlone : Obligations.EmptySpriteIsTheHeaderAlone := by
  intro x0 y0
  refine ⟨decode_encode _, fun s => ⟨_, exec_drawSprite s x0 y0 0#8, ?_⟩⟩
  rw [blitRun_of_no_pixels rfl]
  rfl

/-! The count of the pixels on the screen (R72, R75). -/

/-- Pixel `k` of the sprite at (x0, y0), counted over the columns, is on the screen (R72). -/
abbrev OnScreenAt (x0 : Column) (y0 : Row) (k : Nat) : Prop := x0.toNat + k / 8 < 128 ∧ y0.toNat + k % 8 < 64

/-- The first rows of a column: those above the bottom edge, where the column is on the screen. -/
theorem count_onScreenAt_column (x0 : Column) (y0 : Row) (n : Nat) {m : Nat} (hm : m ≤ 8) :
    Nat.count (fun j => OnScreenAt x0 y0 (8 * n + j)) m =
      if x0.toNat + n < 128 then min m (64 - y0.toNat) else 0 := by
  induction m with
  | zero => simp
  | succ m ih =>
    have hcol : (8 * n + m) / 8 = n := by omega
    have hrow : (8 * n + m) % 8 = m := by omega
    rw [Nat.count_succ, ih (by omega)]
    simp only [OnScreenAt, hcol, hrow]
    split_ifs <;> omega

/-- The pixels on the screen make up a rectangle (R75). -/
theorem count_onScreenAt (x0 : Column) (y0 : Row) (n : Nat) :
    Nat.count (OnScreenAt x0 y0) (8 * n) = min n (128 - x0.toNat) * min 8 (64 - y0.toNat) := by
  induction n with
  | zero => simp
  | succ n ih =>
    rw [Nat.mul_succ, Nat.count_add, ih, count_onScreenAt_column x0 y0 n le_rfl]
    split_ifs with inside
    · have width : min (n + 1) (128 - x0.toNat) = min n (128 - x0.toNat) + 1 := by omega
      rw [width, Nat.succ_mul]
    · have width : min (n + 1) (128 - x0.toNat) = min n (128 - x0.toNat) := by omega
      rw [width, Nat.add_zero]

/-- A pixel is off the screen exactly where the sprite overhangs an edge (R72, R75). -/
theorem inRangePixels_lt_iff (x0 : Column) (y0 : Row) (w : BitVec 8) :
    inRangePixels x0 y0 w < 8 * w.toNat ↔ Overhangs x0 y0 w := by
  rw [inRangePixels, Overhangs]
  constructor
  · intro fewer
    have hpos : 0 < w.toNat := by omega
    refine ⟨hpos, by_contra fun fits => ?_⟩
    rw [min_eq_left (by omega), min_eq_left (by omega), Nat.mul_comm] at fewer
    exact lt_irrefl _ fewer
  · rintro ⟨hpos, wide | tall⟩
    · calc min w.toNat (128 - x0.toNat) * min 8 (64 - y0.toNat)
          ≤ (128 - x0.toNat) * 8 := Nat.mul_le_mul (min_le_right _ _) (min_le_left _ _)
        _ < 8 * w.toNat := by omega
    · calc min w.toNat (128 - x0.toNat) * min 8 (64 - y0.toNat)
          ≤ w.toNat * (64 - y0.toNat) := Nat.mul_le_mul (min_le_left _ _) (min_le_right _ _)
        _ < w.toNat * 8 := Nat.mul_lt_mul_of_pos_left (by omega) hpos
        _ = 8 * w.toNat := Nat.mul_comm _ _

/-! The events and the flag (R71, R72, R83). -/

/-- From `s` to `t` lie `k` pixels, of which `n` were read and written and the others raised OOR. -/
structure Tally (s : State) (n k : Nat) (t : State) : Prop where
  events : ∃ es, t.trace = s.trace ++ es ∧ (es.filter isRead).length = n ∧ (es.filter fun e => !isRead e).length = n
  oor : t.status.oor = true ↔ s.status.oor = true ∨ n < k

namespace Tally

variable {s t : State} {n k : Nat}

theorem start (s : State) : Tally s 0 0 s := ⟨⟨[], (List.append_nil _).symm, rfl, rfl⟩, by simp⟩

theorem of_same {u : State} (h : Tally s n k t) (trace : u.trace = t.trace) (status : u.status = t.status) :
    Tally s n k u :=
  ⟨trace ▸ h.events, status ▸ h.oor⟩

theorem write (h : Tally s n k t) (x : Column) (y : Row) (v : Bool) : Tally s (n + 1) (k + 1) (t.pixelWrite x y v) := by
  obtain ⟨⟨es, trace, reads, writes⟩, oor⟩ := h
  refine ⟨⟨_, by rw [pixelWrite_trace, trace, List.append_assoc], ?_, ?_⟩, ?_⟩
  · rw [List.filter_append, List.length_append, reads]
    rfl
  · rw [List.filter_append, List.length_append, writes]
    rfl
  · rw [pixelWrite_status, oor, Nat.add_lt_add_iff_right]

theorem skip (h : Tally s n k t) (hn : n ≤ k) : Tally s n (k + 1) t.raiseOor :=
  ⟨h.events, by simp [Nat.lt_succ_of_le hn]⟩

/-- The reads and the writes of the events added. -/
theorem counts (h : Tally s n k t) : ((newEvents s t).filter isRead).length = n
    ∧ ((newEvents s t).filter fun e => !isRead e).length = n := by
  obtain ⟨es, trace, counts⟩ := h.events
  rwa [newEvents, trace, List.drop_left]

end Tally

theorem Progress.onScreen_iff {s t : State} {k : Nat} (h : Progress s k t) :
    t.loaded.seq.OnScreen ↔ OnScreenAt s.seq.bx0 s.seq.by0 k := by
  have same := (loaded_frame t).2
  have hx : t.loaded.seq.bx0 = s.seq.bx0 := (congrArg Latches.bx0 same).trans h.bx0
  have hy : t.loaded.seq.by0 = s.seq.by0 := (congrArg Latches.by0 same).trans h.by0
  rw [Latches.OnScreen, position_column, position_row, h.loaded_position, hx, hy]

/-- One more pixel of a legal sprite: a read and a write where it is on the screen, else OOR. -/
theorem Tally.pixelStep {s t : State} {k : Nat} (h : Tally s (Nat.count (OnScreenAt s.seq.bx0 s.seq.by0) k) k t)
    (prog : Progress s k t) (hb : s.seq.bill = false) :
    Tally s (Nat.count (OnScreenAt s.seq.bx0 s.seq.by0) (k + 1)) (k + 1) t.pixelStep := by
  obtain ⟨frame, same⟩ := loaded_frame t
  have loaded := h.of_same (u := t.loaded) (congrArg State.trace frame :) (congrArg State.status frame :)
  have hbill : t.loaded.seq.bill = false := (congrArg Latches.bill same).trans (prog.bill.trans hb)
  rw [Nat.count_succ, State.pixelStep]
  by_cases on : OnScreenAt s.seq.bx0 s.seq.by0 k
  · rw [if_pos on, drawPixel_of_onScreen hbill (prog.onScreen_iff.mpr on)]
    exact (loaded.write _ _ _).of_same rfl rfl
  · rw [if_neg on, drawPixel_of_offScreen hbill (mt prog.onScreen_iff.mp on)]
    exact (loaded.skip (Nat.count_le _)).of_same rfl rfl

theorem tally_afterPixels {s : State} (h0 : s.seq.position = 0) (hb : s.seq.bill = false) {k : Nat} (hk : k ≤ 2040)
    (hw : (k + 31) / 32 ≤ s.cmdIn.length) :
    Tally s (Nat.count (OnScreenAt s.seq.bx0 s.seq.by0) k) k (s.afterPixels k) := by
  induction k with
  | zero => exact .start s
  | succ k ih =>
    rw [afterPixels_succ]
    exact (ih (by omega) (by omega)).pixelStep (progress_afterPixels h0 (by omega) (by omega)) hb

/-- The events and the flag of a legal sprite whose payload is there (R75). -/
theorem tally_blitRun_of_payload {s : State} (h0 : s.seq.position = 0) (hs : s.storeStalls = false)
    (hb : s.seq.bill = false) (hw : spritePayloadWords s.seq.bw ≤ s.cmdIn.length) :
    Tally s (inRangePixels s.seq.bx0 s.seq.by0 s.seq.bw) (8 * s.seq.bw.toNat) s.blitRun := by
  obtain ⟨prog, e⟩ := blitRun_of_payload h0 (.inl hs) hw
  have hlt := s.seq.bw.isLt
  rw [e, inRangePixels, ← count_onScreenAt]
  exact (tally_afterPixels h0 hb (by omega) prog.enough).of_same rfl rfl

/-! The statements. -/

/-- Settles O22: the tally of the run, which is that of the command, for the header makes no event and sets no flag. -/
theorem drawSpriteAccessCount : Obligations.DrawSpriteAccessCount := by
  intro x0 y0 w s hs hw
  have tally := tally_blitRun_of_payload (s := s.takeWord.blitStart x0 y0 w false) rfl hs rfl hw
  have count := (blitRun_words_of_payload (s := s.takeWord.blitStart x0 y0 w false) rfl (.inl hs) hw).2.1
  obtain ⟨reads, writes⟩ := tally.counts
  refine ⟨_, exec_drawSprite s x0 y0 w, reads, writes, tally.oor, ?_⟩
  rw [← Nat.add_assoc]
  exact count

/-- Settles O20: the pixels of the run fix its stripes, and its tally fixes OOR. -/
theorem drawSpriteDrawsItsPixels : Obligations.DrawSpriteDrawsItsPixels := by
  intro x0 y0 w s hs hw
  have pixels := pixel_blitRun_of_payload (s := s.takeWord.blitStart x0 y0 w false) rfl hs rfl hw
  have frame := blitRun_frame_of_payload (s := s.takeWord.blitStart x0 y0 w false) rfl (.inl hs) hw
  have tally := tally_blitRun_of_payload (s := s.takeWord.blitStart x0 y0 w false) rfl hs rfl hw
  obtain ⟨-, -, -, -, -, -, ill⟩ := blitLoop_frame (8 * w.toNat) (s.takeWord.blitStart x0 y0 w false)
  refine ⟨_, exec_drawSprite s x0 y0 w, fun x y => (pixels x y).1, fun x y => (pixels x y).2, ?stripes, ?oor, ?frame,
    ill⟩
  case stripes =>
    intro c st clear
    refine BitVec.eq_of_getLsbD_eq fun b hb => ?_
    rw [stripe_getLsbD_eq_pixel _ c st hb, stripe_getLsbD_eq_pixel _ c st hb]
    exact (pixels c (stripeRow st b)).2 (clear b hb)
  case oor =>
    rw [← inRangePixels_lt_iff]
    exact tally.oor
  case frame =>
    rw [← Nat.add_assoc]
    exact congrArg (fun t : State => { t with seq := s.seq }) frame

end Sys2Proof.Machine
end

section
/-! An illegal DRAW_SPRITE header (R78): its payload goes as far as it has been presented, and nothing is drawn. -/

namespace Sys2Proof.Machine

open Claims

/-- A run that discards a payload that is short holds for the rest, with no access and no flag (R77, R78). -/
theorem blitRun_discards_short {s : State} (h0 : s.seq.position = 0) (hb : s.seq.bill = true)
    (hw : s.cmdIn.length < spritePayloadWords s.seq.bw) :
    { s.blitRun with seq := s.seq } = { s with cp := s.cp + s.cmdIn.length, cmdIn := [] } := by
  obtain ⟨fb, trace, status⟩ := blitLoop_discards s.seq.pixelsLeft s hb
  rw [← blitRun_frame_of_short h0 (.inr hb) hw]
  simp only [State.blitRun, fb, trace, status]

/-- An illegal blit header with a short payload: ILL, the words that there are taken, and the rest awaited (R77, R78). -/
theorem illegalBlit_of_short (s : State) (cw : Word) {w : BitVec 8} (hw : s.cmdIn.tail.length < spritePayloadWords w) :
    { s.illegalHeader cw (.illegalBlit w) with seq := s.seq } =
      { s with
        status := ⟨true, s.status.oor⟩
        cp := s.cp + (1 + s.cmdIn.tail.length)
        cmdIn := []
        phase := .blit } := by
  have run := blitRun_discards_short (s := s.raiseIll.takeWord.blitStart (fieldX cw) (fieldY cw) w true) rfl rfl hw
  rw [← Nat.add_assoc]
  exact congrArg (fun t : State => { t with seq := s.seq }) run

/-- Settles O26: the discarding run takes the whole payload, or what there is of it. -/
theorem illegalBlitDiscardsItsPayload : Obligations.IllegalBlitDiscardsItsPayload := by
  intro cw s rest n h hop hbad hn
  rw [← spritePayloadWords_fieldData] at hn
  refine ⟨_, (step_of_atHeader h).trans (runHeader_of_error (decode_of_illegal_blit hop hbad) s), ?_⟩
  obtain ⟨-, -, hp, -, -, hc⟩ := h
  have tail : s.cmdIn.tail = rest := by rw [hc, List.tail_cons]
  subst tail hn
  split
  case isTrue hw => exact illegalBlit_of_payload cw hp hw
  case isFalse hw => exact illegalBlit_of_short s cw (Nat.lt_of_not_le hw)

end Sys2Proof.Machine
end

section
/-! The schedule takes no part in a turn of PSB (R5): every operation of a turn goes through alike whatever other agents'
moves are scheduled, so a safe move that asserts reset cuts off a command that sets no flag (U2, U3; log entry 20). -/

namespace Sys2Proof.Machine

open Claims

/-- The state with the moves `later` scheduled. -/
def State.scheduled (s : State) (later : List Input) : State := { s with inputs := later }

theorem drawPixel_scheduled (s : State) (later : List Input) :
    (s.scheduled later).drawPixel = s.drawPixel.scheduled later := by
  rcases drawPixel_cases s with ⟨hb, e⟩ | ⟨hb, hx, hy, e⟩ | ⟨hb, off, e⟩ <;> rw [e]
  · exact drawPixel_of_bill hb
  · exact drawPixel_of_onScreen hb ⟨hx, hy⟩
  · exact drawPixel_of_offScreen hb off

/-- The sequencer takes the same branch at every pixel whatever is scheduled. -/
theorem blitLoop_scheduled (n : Nat) (s : State) (later : List Input) :
    blitLoop n (s.scheduled later) = (blitLoop n s).scheduled later := by
  have drawn (u : State) : (u.scheduled later).drawPixel.nextPixel = u.drawPixel.nextPixel.scheduled later :=
    congrArg State.nextPixel (drawPixel_scheduled u later)
  refine blitLoop_induct (P := fun k u => blitLoop n (s.scheduled later) = blitLoop k (u.scheduled later))
    (Q := fun t => blitLoop n (s.scheduled later) = t.scheduled later) ?done ?hold ?load ?draw ?loadWait ?wait n s rfl
  case done => exact fun _ e => e
  case hold => exact fun k u e hd hc => e.trans (blitLoop_hold (s := u.scheduled later) hd hc k)
  case load =>
    intro k u w rest e hd hc hw
    rw [e, blitLoop_load (s := u.scheduled later) hd hc hw k, ← drawn]
    rfl
  case draw =>
    intro k u e hd hw
    rw [e, blitLoop_draw (s := u.scheduled later) hd hw k, ← drawn]
  case loadWait => exact fun k u w rest e hd hc hw => e.trans (blitLoop_load_wait (s := u.scheduled later) hd hc hw k)
  case wait => exact fun k u e hd hw => e.trans (blitLoop_wait (s := u.scheduled later) hd hw k)

theorem blitRun_scheduled (s : State) (later : List Input) : (s.scheduled later).blitRun = s.blitRun.scheduled later :=
  blitLoop_scheduled _ s later

/-! The stripe store. -/

theorem pixelDone_scheduled (s : State) (later : List Input) :
    (s.scheduled later).pixelDone = s.pixelDone.scheduled later := by
  cases hp : s.phase with
  | idle =>
    rw [pixelDone_of_idle hp, pixelDone_of_idle (by exact hp)]
    rfl
  | blit =>
    rw [pixelDone_of_blit hp, pixelDone_of_blit (by exact hp)]
    rfl

theorem completeAccess_scheduled (s : State) (later : List Input) (a : PendingAccess) :
    (s.scheduled later).completeAccess a = (s.completeAccess a).scheduled later := by
  cases a with
  | readStripe c st => rfl
  | writeStripe c st v => rfl
  | getPixel x y => rfl
  | pixelRead x y v => rfl
  | pixelWrite x y v => exact pixelDone_scheduled (s.pixelStore x y v) later

theorem completeSecond_scheduled (s : State) (later : List Input) :
    (s.scheduled later).completeSecond = s.completeSecond.scheduled later := by
  cases ho : s.outstanding with
  | none => rw [completeSecond_of_none ho, completeSecond_of_none (by exact ho)]
  | some a => rw [completeSecond_of_some ho, completeSecond_of_some (by exact ho), completeAccess_scheduled]

theorem finishAccess_scheduled (s : State) (later : List Input) (a : PendingAccess) :
    (s.scheduled later).finishAccess a = (s.finishAccess a).scheduled later := by
  have done : ((s.scheduled later).completeAccess a).completeSecond =
      ((s.completeAccess a).completeSecond).scheduled later := by
    rw [completeAccess_scheduled, completeSecond_scheduled]
  cases hp : s.phase with
  | idle => rw [finishAccess_of_idle hp, finishAccess_of_idle (by exact hp), done]
  | blit => rw [finishAccess_of_blit hp, finishAccess_of_blit (by exact hp), done, blitRun_scheduled]

/-! The commands. -/

theorem exec_scheduled {s t : State} {i : Instr} (ht : exec i s = .next t) (later : List Input) :
    exec i (s.scheduled later) = .next (t.scheduled later) := by
  rcases exec_cases i s with ⟨hs, a, ha, e⟩ | ⟨hs, x, y, v, rfl, e⟩ | ⟨hs, x, y, rfl, e⟩ | ⟨hs, c, st, rfl, e⟩
    | ⟨hs, c, st, v, rfl, e⟩ | ⟨x0, y0, w, rfl, e⟩ | ⟨rfl, e⟩ | ⟨rfl, e⟩ <;> rw [e] at ht <;> cases ht
  · exact exec_stalled hs ha
  · exact exec_setPixel (s := s.scheduled later) hs x y v
  · exact exec_getPixel (s := s.scheduled later) hs x y
  · exact exec_readStripe (s := s.scheduled later) hs c st
  · exact exec_writeStripe (s := s.scheduled later) hs c st v
  · exact congrArg Host.Outcome.next (blitRun_scheduled (s.takeWord.blitStart x0 y0 w false) later)
  · rfl
  · rfl

theorem illegalHeader_scheduled (s : State) (later : List Input) (cw : Word) (why : Reject) :
    (s.scheduled later).illegalHeader cw why = (s.illegalHeader cw why).scheduled later := by
  cases why with
  | unassignedOpcode op => rfl
  | reservedBits op => rfl
  | illegalBlit w => exact blitRun_scheduled (s.raiseIll.takeWord.blitStart (fieldX cw) (fieldY cw) w true) later

/-- A turn of PSB under another schedule ends in the same state but for the schedule. -/
theorem psbStep_scheduled {s t : State} (ht : s.psbStep = .next t) (later : List Input) :
    (s.scheduled later).psbStep = .next (t.scheduled later) := by
  rcases psbStep_cases s with ⟨e, hold⟩ | ⟨hr, hs, a, ha, e⟩ | ⟨hr, ho, hp, e⟩
    | ⟨hr, ho, hp, free, cw, rest, hc, ⟨i, hd, e⟩ | ⟨why, hd, e⟩⟩ <;> rw [e] at ht
  · cases ht
    exact psbStep_of_hold hold
  · cases ht
    rw [psbStep_of_outstanding (s := s.scheduled later) hr ha, if_neg (by simp [State.scheduled, hs]),
      finishAccess_scheduled]
  · cases ht
    rw [psbStep_of_blit (s := s.scheduled later) hr ho hp, blitRun_scheduled]
  · rw [psbStep_of_header (s := s.scheduled later) hr hp ho ((rqHasRoom_iff s).mp free) hc, runHeader_of_ok hd]
    exact exec_scheduled ht later
  · cases ht
    rw [psbStep_of_header (s := s.scheduled later) hr hp ho ((rqHasRoom_iff s).mp free) hc, runHeader_of_error hd,
      illegalHeader_scheduled]

/-! Safe moves. -/

theorem flagFree_iff (s : State) : s.flagFree = true ↔ s.status = ⟨false, false⟩ := by
  cases hf : s.status with
  | mk ill oor => cases ill <;> cases oor <;> simp [State.flagFree, hf]

/-- The flags of a turn that is cut off are those of the turn with the words it took (log entry 20). -/
theorem abortedTurn_status {s t : State} {words : Nat}
    (ht : ({ s with storeStalls := false, cmdIn := s.cmdIn.take words } : State).psbStep = .next t) (events : Nat) :
    (s.abortedTurn events words).status = t.status := by
  rw [State.abortedTurn, ht]
  rfl

/-- Settles O52: the command that a reset cuts off is the turn under the schedule behind the reset. -/
theorem safeMovesSetNoFlag : Obligations.SafeMovesSetNoFlag := by
  intro s t _ safe
  rw [safeMove, Bool.and_eq_true, Bool.and_eq_true] at safe
  obtain ⟨⟨free, freeAbort⟩, -⟩ := safe
  refine ⟨(flagFree_iff t).mp free, fun e k later u hi hu => ?_⟩
  rw [State.abortFlagFree, hi] at freeAbort
  rw [← (flagFree_iff _).mp freeAbort]
  exact (abortedTurn_status (s := s.scheduled later) (psbStep_scheduled hu later) e).symm

end Sys2Proof.Machine
end

section
/-! The status commands (R79, R80): each is one operation on the flags or the queue followed by the taking of its header,
in every state, and every other word of its opcode is illegal, since its mask covers all 32 bits. -/

namespace Sys2Proof.Machine

open Claims

theorem exec_readStatus (s : State) : exec .readStatus s = .next (s.respond s.status.word).takeWord := rfl

theorem exec_clearStatus (s : State) : exec .clearStatus s = .next s.clearFlags.takeWord := rfl

/-- STATUS as a number: OOR stands in the twos and ILL in the ones (R16, R52). -/
theorem statusWord_eq_ofNat (f : Status) : f.word = BitVec.ofNat 32 (2 * f.oor.toNat + f.ill.toNat) := by
  rcases f with ⟨_ | _, _ | _⟩ <;> rfl

/-- Where a row's mask covers the whole word, every word of its opcode but its match only sets ILL (R50, R53). -/
theorem onlySetsIll_of_full_mask {r : OpcodeRow} (hr : r ∈ opcodeTable) (hrow : r ≠ rowDrawSprite)
    (hmask : r.mask = BitVec.allOnes 32) {cw : Word} (hop : cw.toNat / 2 ^ 28 = r.pattern.toNat / 2 ^ 28)
    (hne : cw ≠ r.pattern) : OnlySetsIll cw :=
  onlySetsIll_of_row hr hrow hop fun accepted => hne (eq_pattern_of_accepts hmask ((accepts_iff r cw).mpr accepted))

/-- Settles O18: the response is the word of STATUS as a number, and the header is all that is taken. -/
theorem readStatusReturnsTheFlags : Obligations.ReadStatusReturnsTheFlags := by
  obtain ⟨-, -, -, -, -, -, -, encoding, -⟩ := encodeThenDecode
  refine ⟨encoding, ?effect, ?afterReset, ?illegal⟩
  case effect =>
    intro s
    rw [exec_readStatus, statusWord_eq_ofNat]
    rfl
  case afterReset => exact ⟨_, exec_readStatus State.reset, rfl⟩
  case illegal =>
    intro cw hop hne
    exact onlySetsIll_of_full_mask (r := rowReadStatus) (by decide) (by decide) rfl hop hne

/-- Settles O19: the clear and the taking of the header are all of the command, and no illegal word of its opcode
clears. -/
theorem clearStatusClearsBothFlags : Obligations.ClearStatusClearsBothFlags := by
  obtain ⟨-, -, -, -, -, -, -, -, encoding⟩ := encodeThenDecode
  refine ⟨encoding, exec_clearStatus, ?illegal⟩
  case illegal =>
    intro cw hop hne
    exact onlySetsIll_of_full_mask (r := rowClearStatus) (by decide) (by decide) rfl hop hne

end Sys2Proof.Machine
end

section
/-! Reset in mid-command (R99, R100): more words presented behind take no event away from a turn, so what a reset leaves of
a command is the first of its events and of its words, and some reset leaves any number of its events. -/

namespace Sys2Proof.Machine

open Claims

/-! Two states of one command. -/

/-- The events of `t` are the first of those of `u`, and `t` has taken no more words. -/
def State.OnTheWayTo (t u : State) : Prop := t.trace <+: u.trace ∧ t.cp ≤ u.cp

theorem onTheWayTo_of_same {t u : State} (trace : t.trace = u.trace) (cp : t.cp = u.cp) : t.OnTheWayTo u :=
  ⟨trace ▸ List.prefix_rfl, cp.le⟩

theorem psbStep_onTheWayTo {s t : State} (ht : s.psbStep = .next t) : s.OnTheWayTo t := by
  obtain ⟨es, trace, -, -⟩ := psbStep_traceExplains ht
  obtain ⟨cp, -, -⟩ := commandPointerCountsWordsTaken s t ht
  exact ⟨⟨es, trace.symm⟩, cp⟩

theorem blitLoop_onTheWayTo (n : Nat) (s : State) : s.OnTheWayTo (blitLoop n s) :=
  blitLoop_keeps (P := s.OnTheWayTo) (fun _ h => h) (fun _ _ _ ⟨trace, cp⟩ _ => ⟨trace, Nat.le_succ_of_le cp⟩)
    (fun u ⟨trace, cp⟩ => drawPixel_keeps (P := s.OnTheWayTo) ⟨trace, cp⟩
      (fun x y v => ⟨trace.trans (by simp), cp⟩) (fun _ => ⟨trace, cp⟩))
    (fun _ h => h) (fun _ h _ => h) n s (onTheWayTo_of_same rfl rfl)

/-! A turn with more words presented (R11, R77). -/

theorem pixelStep_storeStalls (s : State) : s.pixelStep.storeStalls = s.storeStalls :=
  calc s.loaded.drawPixel.storeStalls
      = s.loaded.storeStalls := (congrArg State.storeStalls (drawPixel_frame s.loaded).1 :)
    _ = s.storeStalls := (congrArg State.storeStalls (loaded_frame s).1 :)

/-- Where the sequencer holds for a word, the run with more words goes on, and until then the two runs are alike. -/
theorem blitLoop_onTheWayTo_presented {s : State} (hs : StoreAnswers s) (n : Nat) (more : List Word) :
    (blitLoop n s).OnTheWayTo (blitLoop n (s.presented more)) := by
  induction n generalizing s with
  | zero => exact onTheWayTo_of_same rfl rfl
  | succ n ih =>
    by_cases hold : s.payloadDue = true ∧ s.cmdIn = []
    · obtain ⟨hd, hc⟩ := hold
      rw [blitLoop_hold hd hc]
      exact blitLoop_onTheWayTo (n + 1) (s.presented more)
    · have hc : s.payloadDue = true → s.cmdIn ≠ [] := fun hd hc => hold ⟨hd, hc⟩
      have hc' : (s.presented more).payloadDue = true → (s.presented more).cmdIn ≠ [] :=
        fun hd => List.append_ne_nil_of_left_ne_nil (hc hd) more
      rw [blitLoop_step (.inl hs) hc, blitLoop_step (s := s.presented more) (.inl hs) hc', pixelStep_presented hc]
      exact ih ((pixelStep_storeStalls s).trans hs)

/-- The completion of an access, with the write half of its pixel, does not look at the words presented, and leaves the
level of the stripe store alone. -/
theorem completeAccess_completeSecond_presented (s : State) (a : PendingAccess) (more : List Word) :
    ((s.presented more).completeAccess a).completeSecond = ((s.completeAccess a).completeSecond).presented more
      ∧ ((s.completeAccess a).completeSecond).storeStalls = s.storeStalls := by
  obtain ⟨_, phase⟩ := s
  cases phase with
  | idle => cases a <;> exact ⟨rfl, rfl⟩
  | blit => cases a <;> exact ⟨rfl, rfl⟩

theorem finishAccess_onTheWayTo_presented {s : State} (hs : StoreAnswers s) (a : PendingAccess) (more : List Word) :
    (s.finishAccess a).OnTheWayTo ((s.presented more).finishAccess a) := by
  obtain ⟨done, level⟩ := completeAccess_completeSecond_presented s a more
  cases hp : s.phase with
  | idle =>
    rw [finishAccess_of_idle hp, finishAccess_of_idle (by exact hp), done]
    exact onTheWayTo_of_same rfl rfl
  | blit =>
    rw [finishAccess_of_blit hp, finishAccess_of_blit (by exact hp), done]
    exact blitLoop_onTheWayTo_presented (level.trans hs) _ more

section
variable {s : State} (hs : StoreAnswers s) (hc : s.cmdIn ≠ []) (more : List Word)
include hs hc

/-- A sprite's run from its header on, legal or not (R69, R78). -/
theorem blitStart_onTheWayTo_presented (x0 : Column) (y0 : Row) (w : BitVec 8) (bill : Bool) :
    (s.takeWord.blitStart x0 y0 w bill).blitRun.OnTheWayTo ((s.presented more).takeWord.blitStart x0 y0 w bill).blitRun := by
  rw [takeWord_presented hc]
  exact blitLoop_onTheWayTo_presented (s := s.takeWord.blitStart x0 y0 w bill) hs _ more

theorem exec_onTheWayTo_presented (i : Instr) :
    ∃ t u, exec i s = .next t ∧ exec i (s.presented more) = .next u ∧ t.OnTheWayTo u := by
  have hs' : StoreAnswers (s.presented more) := hs
  cases i with
  | setPixel x y v => exact ⟨_, _, exec_setPixel hs x y v, exec_setPixel hs' x y v, onTheWayTo_of_same rfl rfl⟩
  | getPixel x y => exact ⟨_, _, exec_getPixel hs x y, exec_getPixel hs' x y, onTheWayTo_of_same rfl rfl⟩
  | readStripe c st => exact ⟨_, _, exec_readStripe hs c st, exec_readStripe hs' c st, onTheWayTo_of_same rfl rfl⟩
  | writeStripe c st v => exact ⟨_, _, exec_writeStripe hs c st v, exec_writeStripe hs' c st v,
      onTheWayTo_of_same rfl rfl⟩
  | drawSprite x0 y0 w => exact ⟨_, _, rfl, rfl, blitStart_onTheWayTo_presented hs hc more x0 y0 w false⟩
  | readStatus => exact ⟨_, _, rfl, rfl, onTheWayTo_of_same rfl rfl⟩
  | clearStatus => exact ⟨_, _, rfl, rfl, onTheWayTo_of_same rfl rfl⟩

theorem illegalHeader_onTheWayTo_presented (cw : Word) (why : Reject) :
    (s.illegalHeader cw why).OnTheWayTo ((s.presented more).illegalHeader cw why) := by
  cases why with
  | unassignedOpcode op => exact onTheWayTo_of_same rfl rfl
  | reservedBits op => exact onTheWayTo_of_same rfl rfl
  | illegalBlit w => exact blitStart_onTheWayTo_presented (s := s.raiseIll) hs hc more (fieldX cw) (fieldY cw) w true

end

/-- The turn with more words presented makes the events of the turn without them first, and takes its words. -/
theorem psbStep_onTheWayTo_presented {s : State} (hs : StoreAnswers s) (more : List Word) :
    ∃ t u, s.psbStep = .next t ∧ (s.presented more).psbStep = .next u ∧ t.OnTheWayTo u := by
  rcases psbStep_cases s with ⟨e, -⟩ | ⟨hr, -, a, ha, e⟩ | ⟨hr, ho, hp, e⟩ | ⟨hr, ho, hp, free, cw, rest, hc, -⟩
  · obtain ⟨u, hu⟩ := psbStep_next (s.presented more)
    exact ⟨s, u, e, hu, psbStep_onTheWayTo (s := s.presented more) hu⟩
  · refine ⟨_, _, e, psbStep_of_outstanding (s := s.presented more) hr ha, ?_⟩
    rw [if_neg (by exact ne_true_of_eq_false hs)]
    exact finishAccess_onTheWayTo_presented hs a more
  · exact ⟨_, _, e, psbStep_of_blit (s := s.presented more) hr ho hp, blitLoop_onTheWayTo_presented hs _ more⟩
  · have room := (rqHasRoom_iff s).mp free
    have hc' : (s.presented more).cmdIn = cw :: (rest ++ more) := by simp [State.presented, hc]
    rw [psbStep_of_header hr hp ho room hc, psbStep_of_header (s := s.presented more) hr hp ho room hc']
    have hne : s.cmdIn ≠ [] := by simp [hc]
    cases hd : decode cw with
    | ok i =>
      rw [runHeader_of_ok hd, runHeader_of_ok hd]
      exact exec_onTheWayTo_presented hs hne more i
    | error why =>
      rw [runHeader_of_error hd, runHeader_of_error hd]
      exact ⟨_, _, rfl, rfl, illegalHeader_onTheWayTo_presented hs hne more cw why⟩

/-! The reset move (R98 to R100; log entry 11). -/

/-- The machine as the turn that a reset cuts off after `words` words finds it. -/
def State.cutTo (s : State) (words : Nat) : State := { s with storeStalls := false, cmdIn := s.cmdIn.take words }

theorem cutTo_presented (s : State) (words : Nat) :
    (s.cutTo words).presented (s.cmdIn.drop words) = s.answering := by
  rw [State.presented, State.cutTo, List.take_append_drop]
  rfl

theorem newEvents_of_append {s t : State} {es : List StripeEvent} (h : t.trace = s.trace ++ es) : newEvents s t = es := by
  rw [newEvents, h, List.drop_left]

/-- What reset leaves, from the turn that it cuts off: the first events of the turn, and the words it did not take. -/
theorem step_of_assertReset {s t : State} {events words : Nat} {later : List Input}
    (hi : s.inputs = .assertReset events words :: later) (ht : (s.cutTo words).psbStep = .next t) :
    step s = .next ({ s with
      inputs := later
      fb := s.fb.replay ((newEvents s t).take events)
      trace := s.trace ++ (newEvents s t).take events
      cmdIn := s.cmdIn.drop (t.cp - s.cp) } : State).enterReset := by
  obtain ⟨-, hle, hdrop⟩ := commandPointerCountsWordsTaken _ t ht
  have taken : (s.cmdIn.take words).length - t.cmdIn.length = t.cp - s.cp := by
    rw [hdrop, List.length_drop]
    exact Nat.sub_sub_self hle
  rw [← taken, step_of_input hi, State.inputStep, State.abortedTurn]
  have turn : ({ s with inputs := later, storeStalls := false, cmdIn := s.cmdIn.take words } : State).psbStep =
    .next (t.scheduled later) := psbStep_scheduled ht later
  simp only [turn]
  rfl

/-! The statements. -/

/-- Settles O50: the turn that is cut off is on the way to the whole turn, which has the words behind presented too. -/
theorem abortLeavesAPrefix : Obligations.AbortLeavesAPrefix := by
  intro s e k later u hi hu
  obtain ⟨t, u', ht, hu', trace, cp⟩ := psbStep_onTheWayTo_presented (s := s.cutTo k) rfl (s.cmdIn.drop k)
  rw [cutTo_presented] at hu'
  cases hu'.symm.trans hu
  obtain ⟨-, hle, -⟩ := commandPointerCountsWordsTaken _ t ht
  exact ⟨_, (newEvents s t).take e, t.cp - s.cp, step_of_assertReset hi ht,
    (List.take_prefix _ _).trans (trace.drop _), List.length_take_le _ _, rfl, rfl,
    hle.trans (List.length_take_le _ _), Nat.sub_le_sub_right cp _, rfl⟩

/-- Settles O51: a reset that lets the turn take every word presented cuts off the whole turn, after as many events as
it asks for. -/
theorem everyPrefixIsAdmitted : Obligations.EveryPrefixIsAdmitted := by
  intro s later u e hu _
  have whole : (({ s with inputs := .assertReset e s.cmdIn.length :: later } : State).cutTo s.cmdIn.length).psbStep =
      .next (u.scheduled (.assertReset e s.cmdIn.length :: later)) := by
    rw [State.cutTo, List.take_length]
    exact psbStep_scheduled hu _
  exact ⟨_, step_of_assertReset rfl whole, newEvents_of_append rfl, rfl⟩

end Sys2Proof.Machine
end

section
/-! Entry after reset, and the moves that change the level of the stripe store (R97, R101, R108). -/

namespace Sys2Proof.Machine

open Claims

/-- Settles O44: each of the two moves assigns the level. -/
theorem storeLevelMoves : Obligations.StoreLevelMoves := fun _ _ => ⟨step_of_input, step_of_input⟩

/-- Settles O53: in reset PSB holds its reset values, which make a command boundary with an empty queue once reset is
released. -/
theorem firstWordAfterResetIsAHeader : Obligations.FirstWordAfterResetIsAHeader := by
  intro s cw rest inv hr hi hc
  obtain ⟨hp, ho, hcp, hq, -⟩ := inv.inReset hr
  have boundary : AtHeader { s with inputs := [], rst := false } cw rest :=
    ⟨rfl, rfl, hp, ho, by simp [hq, Config.rspDepth], hc⟩
  exact ⟨_, step_of_input hi, boundary, hcp, step_of_atHeader boundary⟩

end Sys2Proof.Machine
end
